-- ==== Sys2Proof/Word.lean ====
section
/-! DEFINITION. The two bit-vector widths of the block: a byte and the 16-bit checksum word (R6). -/

namespace Sys2Proof

/-- A byte, 8 bits, bit 0 least significant (R6). -/
abbrev Byte := BitVec 8

/-- A 16-bit value: the checksum accumulator and every checksum (R6, R11). -/
abbrev Word16 := BitVec 16

end Sys2Proof
end

