-- ==== Sys2Proof/Config.lean ====
section
/-! DEFINITION. The parameters of R5 as one record, with their values for this hardware (D39). -/

namespace Sys2Proof

/-- The implementation parameters of R5, under the spec's names. -/
structure Config where
  /-- `POLY`: CRC polynomial XORed in when bit 15 shifts out set. -/
  poly : Word16
  /-- `SEED`: initial accumulator of `CHECKSUM`. -/
  seed : Word16
  /-- `HEAD`: value of each of the two framing bytes. -/
  head : Byte
  /-- `HDR_LEN`: header bytes. -/
  hdrLen : Nat
  /-- `CRC_LEN`: trailing checksum bytes. -/
  crcLen : Nat
  /-- `MAX_PAYLOAD`: largest payload length. -/
  maxPayload : Nat
  /-- `SYNC_START`: sync byte of the first frame after connect. -/
  syncStart : Byte
  /-- `SYNC_A`: first alternating sync value. -/
  syncA : Byte
  /-- `SYNC_B`: second alternating sync value. -/
  syncB : Byte
  /-- `T_IDLE`: quiet period of the idle detector, in ticks of 1 ms. -/
  tIdle : Nat
  /-- `T_REQ`: request timeout bound of the host; an input of no rule of the block (D4). -/
  tReq : Nat
  /-- `BAUD`: speed of the line, informative. -/
  baud : Nat
  deriving DecidableEq, Repr

/-- Free value: by how many ticks `T_IDLE` exceeds 100, anything from 0 to 50 (R5, D3, log 6). -/
opaque Config.idleSlack : Fin 51

/-- Free value: the host's `T_REQ`, which no rule reads (R5, D4, log 20). -/
opaque Config.hostTimeout : Nat

/-- The parameters of this hardware: the defaults of R5, with the OPEN ones left free (D39, logs 6, 7, 20). -/
def Config.hw : Config where
  poly := 0x1021
  seed := 0x7E7E
  head := 0x7E
  hdrLen := 6
  crcLen := 2
  maxPayload := 255
  syncStart := 0x02
  syncA := 0x01
  syncB := 0x00
  tIdle := 100 + Config.idleSlack.val
  tReq := Config.hostTimeout
  baud := 19200

end Sys2Proof
end

