-- ==== Sys2Proof/Syntax.lean ====
section
/-! DEFINITION. The instructions: one constructor per row of spec/opcode_table.json, 21 operations of the block
(format OP, R80) and 16 requests named by their meter opcode (format PAYLOAD0, R75). -/

namespace Sys2Proof

/-- The operations of R80 and the meter requests of R75. -/
inductive Instr where
  /-- `RESET` (R230). -/
  | reset
  /-- `CRC_LOAD v` (R90). -/
  | crcLoad (v : Word16)
  /-- `CRC_BIT d` (R91). -/
  | crcBit (d : Bool)
  /-- `CRC_BYTE b` (R92). -/
  | crcByte (b : Byte)
  /-- `CRC_READ` (R93). -/
  | crcRead
  /-- `CHECKSUM bytes, seed` (R94). -/
  | checksum (bytes : List Byte) (seed : Word16)
  /-- `BUILD node, port, sync, payload` (R110). -/
  | build (node port sync : Byte) (payload : List Byte)
  /-- `ISSUE node, port, payload` (R113). -/
  | issue (node port : Byte) (payload : List Byte)
  /-- `WRITE_START` (R114). -/
  | writeStart
  /-- `TRY_PARSE buffer` (R130). -/
  | tryParse (buffer : List Byte)
  /-- `RX_DATA bs` (R135). -/
  | rxData (bs : List Byte)
  /-- `RX_FLUSH` (R139). -/
  | rxFlush
  /-- `STATUS_DECODE b` (R150). -/
  | statusDecode (b : Byte)
  /-- `TICK` (R160). -/
  | tick
  /-- `IDLE_FIRE` (R161), internal. -/
  | idleFire
  /-- `LINK_OPEN` (R180). -/
  | linkOpen
  /-- `LINK_CLOSE` (R181). -/
  | linkClose
  /-- `LINK_ERROR` (R182). -/
  | linkError
  /-- `LINK_DRAIN` (R183). -/
  | linkDrain
  /-- `REQ_TIMEOUT` (R184). -/
  | reqTimeout
  /-- `REQ_ABORT reason`, the reason as an outcome code (R185, R200, log 14). -/
  | reqAbort (reason : Byte)
  /-- `GET_PRODUCT_ID`: a request whose payload byte 0 is 0x00 (R75). -/
  | getProductId (node port : Byte) (operands : List Byte)
  /-- `GET_FIELD`: payload byte 0 is 0x20 (R75). -/
  | getField (node port : Byte) (operands : List Byte)
  /-- `SET_FIELD`: payload byte 0 is 0x21 (R75). -/
  | setField (node port : Byte) (operands : List Byte)
  /-- `MACHINE_STATUS`: payload byte 0 is 0x23 (R75). -/
  | machineStatus (node port : Byte) (operands : List Byte)
  /-- `ISSUE_COMMAND`: payload byte 0 is 0x24 (R75). -/
  | issueCommand (node port : Byte) (operands : List Byte)
  /-- `GET_VERSION`: payload byte 0 is 0x26 (R75). -/
  | getVersion (node port : Byte) (operands : List Byte)
  /-- `GET_SECURITY`: payload byte 0 is 0x27 (R75). -/
  | getSecurity (node port : Byte) (operands : List Byte)
  /-- `DELIVERY_STATUS`: payload byte 0 is 0x28 (R75). -/
  | deliveryStatus (node port : Byte) (operands : List Byte)
  /-- `START_PAUSE_DELIVERY`: payload byte 0 is 0x29 (R75). -/
  | startPauseDelivery (node port : Byte) (operands : List Byte)
  /-- `GET_TRANSACTION`: payload byte 0 is 0x2A (R75). -/
  | getTransaction (node port : Byte) (operands : List Byte)
  /-- `DELETE_TRANSACTION`: payload byte 0 is 0x2B (R75). -/
  | deleteTransaction (node port : Byte) (operands : List Byte)
  /-- `GET_FIELD_PARAMS`: payload byte 0 is 0x7B (R75). -/
  | getFieldParams (node port : Byte) (operands : List Byte)
  /-- `SET_BAUD_RATE`: payload byte 0 is 0x7C (R75). -/
  | setBaudRate (node port : Byte) (operands : List Byte)
  /-- `CHECK_LAST_REQUEST`: payload byte 0 is 0x7D (R75). -/
  | checkLastRequest (node port : Byte) (operands : List Byte)
  /-- `ABORT_REQUEST`: payload byte 0 is 0x7E (R75). -/
  | abortRequest (node port : Byte) (operands : List Byte)
  /-- `GET_FIELD_PARAMS2`: payload byte 0 is 0x7F (R75). -/
  | getFieldParams2 (node port : Byte) (operands : List Byte)
  deriving DecidableEq, Repr

/-- The sixteen listed values of payload byte 0 (R75). -/
def meterOpcodes : List Byte :=
  [0x00, 0x20, 0x21, 0x23, 0x24, 0x26, 0x27, 0x28, 0x29, 0x2A, 0x2B, 0x7B, 0x7C, 0x7D, 0x7E, 0x7F]

end Sys2Proof
end

