-- ==== Sys2Proof/WellFormed.lean ====
section
/-! DEFINITION. Which instructions have words in the byte notation of 95_test_vectors.md section 8. An instruction
outside has a meaning all the same and is invoked as a typed call (log 2). -/

namespace Sys2Proof

/-- A sequence operand whose length fits the notation's one length byte. -/
def fitsLengthByte (l : List Byte) : Bool := decide (l.length ≤ 255)

/-- Payload byte 0 is one of the listed meter opcodes (R75). -/
def startsWithMeterOpcode : List Byte → Bool
  | [] => false
  | b :: _ => meterOpcodes.contains b

/-- The instruction has words of its own: its sequences fit their length byte, and an `ISSUE` whose payload starts
with a listed meter opcode is written as that opcode's row (log 8). -/
def Instr.wellFormed : Instr → Bool
  | .reset => true
  | .crcLoad _ => true
  | .crcBit _ => true
  | .crcByte _ => true
  | .crcRead => true
  | .checksum bytes _ => fitsLengthByte bytes
  | .build _ _ _ payload => fitsLengthByte payload
  | .issue _ _ payload => fitsLengthByte payload && !startsWithMeterOpcode payload
  | .writeStart => true
  | .tryParse buffer => fitsLengthByte buffer
  | .rxData bs => fitsLengthByte bs
  | .rxFlush => true
  | .statusDecode _ => true
  | .tick => true
  | .idleFire => true
  | .linkOpen => true
  | .linkClose => true
  | .linkError => true
  | .linkDrain => true
  | .reqTimeout => true
  | .reqAbort _ => true
  | .getProductId _ _ ops => fitsLengthByte (0x00 :: ops)
  | .getField _ _ ops => fitsLengthByte (0x20 :: ops)
  | .setField _ _ ops => fitsLengthByte (0x21 :: ops)
  | .machineStatus _ _ ops => fitsLengthByte (0x23 :: ops)
  | .issueCommand _ _ ops => fitsLengthByte (0x24 :: ops)
  | .getVersion _ _ ops => fitsLengthByte (0x26 :: ops)
  | .getSecurity _ _ ops => fitsLengthByte (0x27 :: ops)
  | .deliveryStatus _ _ ops => fitsLengthByte (0x28 :: ops)
  | .startPauseDelivery _ _ ops => fitsLengthByte (0x29 :: ops)
  | .getTransaction _ _ ops => fitsLengthByte (0x2A :: ops)
  | .deleteTransaction _ _ ops => fitsLengthByte (0x2B :: ops)
  | .getFieldParams _ _ ops => fitsLengthByte (0x7B :: ops)
  | .setBaudRate _ _ ops => fitsLengthByte (0x7C :: ops)
  | .checkLastRequest _ _ ops => fitsLengthByte (0x7D :: ops)
  | .abortRequest _ _ ops => fitsLengthByte (0x7E :: ops)
  | .getFieldParams2 _ _ ops => fitsLengthByte (0x7F :: ops)

end Sys2Proof
end

