-- ==== Sys2Proof/Decode.lean ====
section
/-! DEFINITION. The decoder of the byte notation of 95_test_vectors.md section 8, total on any bytes and rejecting by
name; then the encoder, the shorthands of R81 and the words of the opcode table. -/

namespace Sys2Proof

/-- Why bytes are no operation. -/
inductive DecodeError where
  /-- There is no byte to read an op code from. -/
  | empty
  /-- An op code 0x15 to 0x1F, which selects no operation; the step answers `REFUSED` (R83). -/
  | reservedOp (code : Byte)
  /-- A first byte that is no value of the 5-bit op code (R80). -/
  | notAnOpcode (code : Byte)
  /-- The operand bytes end before the operand does. -/
  | truncated
  /-- The operand byte of `CRC_BIT` is neither 00 nor 01. -/
  | notABit (operand : Byte)
  deriving DecidableEq, Repr

/-- What a decoder answers: an instruction and the bytes after it, or the reason there is none. -/
abbrev Decoded := Except DecodeError (Instr × List Byte)

/-- A byte operand, as itself. -/
def readByte : List Byte → Except DecodeError (Byte × List Byte)
  | [] => .error .truncated
  | b :: rest => .ok (b, rest)

/-- A 16-bit operand, high byte first. -/
def readWord16 : List Byte → Except DecodeError (Word16 × List Byte)
  | hi :: lo :: rest => .ok (hi ++ lo, rest)
  | _ => .error .truncated

/-- A one-bit operand, in a byte 00 or 01. -/
def readBit : List Byte → Except DecodeError (Bool × List Byte)
  | [] => .error .truncated
  | b :: rest =>
    if b = 0x00 then .ok (false, rest)
    else if b = 0x01 then .ok (true, rest)
    else .error (.notABit b)

/-- A byte-sequence operand: a length byte, then that many bytes. -/
def readSeq : List Byte → Except DecodeError (List Byte × List Byte)
  | [] => .error .truncated
  | n :: rest =>
    if n.toNat ≤ rest.length then .ok (rest.take n.toNat, rest.drop n.toNat)
    else .error .truncated

/-- The row of the meter opcode table that payload byte 0 selects (R75), none for an unlisted value (R76). -/
def meterRequest (opcode node port : Byte) (operands : List Byte) : Option Instr :=
  match opcode.toNat with
  | 0x00 => some (.getProductId node port operands)
  | 0x20 => some (.getField node port operands)
  | 0x21 => some (.setField node port operands)
  | 0x23 => some (.machineStatus node port operands)
  | 0x24 => some (.issueCommand node port operands)
  | 0x26 => some (.getVersion node port operands)
  | 0x27 => some (.getSecurity node port operands)
  | 0x28 => some (.deliveryStatus node port operands)
  | 0x29 => some (.startPauseDelivery node port operands)
  | 0x2A => some (.getTransaction node port operands)
  | 0x2B => some (.deleteTransaction node port operands)
  | 0x7B => some (.getFieldParams node port operands)
  | 0x7C => some (.setBaudRate node port operands)
  | 0x7D => some (.checkLastRequest node port operands)
  | 0x7E => some (.abortRequest node port operands)
  | 0x7F => some (.getFieldParams2 node port operands)
  | _ => none

/-- The instruction of an `ISSUE` operation: the row its payload byte 0 selects, else the `ISSUE` itself (R75, R76,
log 8). -/
def requestInstr (node port : Byte) (payload : List Byte) : Instr :=
  match payload with
  | [] => .issue node port payload
  | opcode :: operands => (meterRequest opcode node port operands).getD (.issue node port payload)

/-- The operands of `BUILD`. -/
def decodeBuild (bytes : List Byte) : Decoded := do
  let (node, r) ← readByte bytes
  let (port, r) ← readByte r
  let (sync, r) ← readByte r
  let (payload, r) ← readSeq r
  .ok (.build node port sync payload, r)

/-- The operands of `ISSUE`. -/
def decodeIssue (bytes : List Byte) : Decoded := do
  let (node, r) ← readByte bytes
  let (port, r) ← readByte r
  let (payload, r) ← readSeq r
  .ok (requestInstr node port payload, r)

/-- The operation an op code selects (R80), its operands read from the bytes after it. -/
def decodeOperation (code : Byte) (bytes : List Byte) : Decoded :=
  match code.toNat with
  | 0x00 => .ok (.reset, bytes)
  | 0x01 => do let (v, r) ← readWord16 bytes; .ok (.crcLoad v, r)
  | 0x02 => do let (d, r) ← readBit bytes; .ok (.crcBit d, r)
  | 0x03 => do let (b, r) ← readByte bytes; .ok (.crcByte b, r)
  | 0x04 => .ok (.crcRead, bytes)
  | 0x05 => do let (bs, r) ← readSeq bytes; let (seed, r) ← readWord16 r; .ok (.checksum bs seed, r)
  | 0x06 => decodeBuild bytes
  | 0x07 => decodeIssue bytes
  | 0x08 => .ok (.writeStart, bytes)
  | 0x09 => do let (buf, r) ← readSeq bytes; .ok (.tryParse buf, r)
  | 0x0A => do let (bs, r) ← readSeq bytes; .ok (.rxData bs, r)
  | 0x0B => .ok (.rxFlush, bytes)
  | 0x0C => do let (b, r) ← readByte bytes; .ok (.statusDecode b, r)
  | 0x0D => .ok (.tick, bytes)
  | 0x0E => .ok (.idleFire, bytes)
  | 0x0F => .ok (.linkOpen, bytes)
  | 0x10 => .ok (.linkClose, bytes)
  | 0x11 => .ok (.linkError, bytes)
  | 0x12 => .ok (.linkDrain, bytes)
  | 0x13 => .ok (.reqTimeout, bytes)
  | 0x14 => do let (b, r) ← readByte bytes; .ok (.reqAbort b, r)
  | _ => if code.toNat < 32 then .error (.reservedOp code) else .error (.notAnOpcode code)

/-- The first operation of a byte string, and the bytes after it. -/
def decode : List Byte → Decoded
  | [] => .error .empty
  | code :: bytes => decodeOperation code bytes

/-- The words of a byte-sequence operand. -/
def encodeSeq (l : List Byte) : List Byte := BitVec.ofNat 8 l.length :: l

/-- The words of a 16-bit operand, high byte first. -/
def encodeWord16 (v : Word16) : List Byte := [v.extractLsb' 8 8, v.extractLsb' 0 8]

/-- The words of an `ISSUE` operation. -/
def encodeIssue (node port : Byte) (payload : List Byte) : List Byte :=
  0x07 :: node :: port :: encodeSeq payload

/-- The words of an instruction in the notation of 95_test_vectors.md section 8. -/
def encode : Instr → List Byte
  | .reset => [0x00]
  | .crcLoad v => 0x01 :: encodeWord16 v
  | .crcBit d => [0x02, if d then 0x01 else 0x00]
  | .crcByte b => [0x03, b]
  | .crcRead => [0x04]
  | .checksum bytes seed => 0x05 :: (encodeSeq bytes ++ encodeWord16 seed)
  | .build node port sync payload => 0x06 :: node :: port :: sync :: encodeSeq payload
  | .issue node port payload => encodeIssue node port payload
  | .writeStart => [0x08]
  | .tryParse buffer => 0x09 :: encodeSeq buffer
  | .rxData bs => 0x0A :: encodeSeq bs
  | .rxFlush => [0x0B]
  | .statusDecode b => [0x0C, b]
  | .tick => [0x0D]
  | .idleFire => [0x0E]
  | .linkOpen => [0x0F]
  | .linkClose => [0x10]
  | .linkError => [0x11]
  | .linkDrain => [0x12]
  | .reqTimeout => [0x13]
  | .reqAbort reason => [0x14, reason]
  | .getProductId node port ops => encodeIssue node port (0x00 :: ops)
  | .getField node port ops => encodeIssue node port (0x20 :: ops)
  | .setField node port ops => encodeIssue node port (0x21 :: ops)
  | .machineStatus node port ops => encodeIssue node port (0x23 :: ops)
  | .issueCommand node port ops => encodeIssue node port (0x24 :: ops)
  | .getVersion node port ops => encodeIssue node port (0x26 :: ops)
  | .getSecurity node port ops => encodeIssue node port (0x27 :: ops)
  | .deliveryStatus node port ops => encodeIssue node port (0x28 :: ops)
  | .startPauseDelivery node port ops => encodeIssue node port (0x29 :: ops)
  | .getTransaction node port ops => encodeIssue node port (0x2A :: ops)
  | .deleteTransaction node port ops => encodeIssue node port (0x2B :: ops)
  | .getFieldParams node port ops => encodeIssue node port (0x7B :: ops)
  | .setBaudRate node port ops => encodeIssue node port (0x7C :: ops)
  | .checkLastRequest node port ops => encodeIssue node port (0x7D :: ops)
  | .abortRequest node port ops => encodeIssue node port (0x7E :: ops)
  | .getFieldParams2 node port ops => encodeIssue node port (0x7F :: ops)

/-- `CRC_SEED`: shorthand for `CRC_LOAD SEED` (R81). -/
def crcSeed : Instr := .crcLoad Config.hw.seed

/-- `RX_BYTE b`: shorthand for `RX_DATA [b]` (R81). -/
def rxByte (b : Byte) : Instr := .rxData [b]

/-- `TICK x n`: shorthand for `TICK` repeated `n` times (R81). -/
def ticks (n : Nat) : List Instr := List.replicate n .tick

/-- `CHECKSUM bytes` with its seed omitted, which is `SEED` (R94, log 19). -/
def checksumFromSeed (bytes : List Byte) : Instr := .checksum bytes Config.hw.seed

/-- The low `n` bytes of a number, least significant first. -/
def bytesOfNat : Nat → Nat → List Byte
  | 0, _ => []
  | n + 1, w => BitVec.ofNat 8 w :: bytesOfNat n (w / 256)

/-- The bytes of a table word, laid out as the block is invoked with it, operand bytes zero: an OP row is an op code; a
PAYLOAD0 row is byte 0 of the payload of an `ISSUE` to node 0, port 0 (logs 8, 9). -/
def tableBytes (nbits w : Nat) : List Byte :=
  let bytes := bytesOfNat (nbits / 8) w
  let zeros := List.replicate 8 0x00
  if 32 ≤ w % 256 then 0x07 :: 0x00 :: 0x00 :: BitVec.ofNat 8 bytes.length :: bytes ++ zeros else bytes ++ zeros

/-- The bytes of the first operation of a byte string, without what follows it; the first byte where there is none. -/
def firstOperationBytes (bytes : List Byte) : List Byte :=
  match decode bytes with
  | .ok (_, rest) => bytes.take (bytes.length - rest.length)
  | .error _ => bytes.take 1

/-- The instruction the decoder reads from a word of spec/opcode_table.json (log 9). -/
def decodeTableWord (nbits w : Nat) : Option Instr :=
  match decode (tableBytes nbits w) with
  | .ok (i, _) => some i
  | .error _ => none

end Sys2Proof
end

