-- ==== Sys2Proof/Machine/State.lean ====
section
/-! DEFINITION. The state: the nine items of the block (R10) and, beside them, the model's own record of what goes in
and out of it; the values that pass through (Response, outcomes, events, results); reset. -/

namespace Sys2Proof.Machine

/-- The state of the sync sequencer (R12). -/
inductive SyncState where
  | start
  | a
  | b
  deriving DecidableEq, Repr

/-- The request register (R15). -/
inductive ReqState where
  | idle
  | armed
  | sent
  deriving DecidableEq, Repr

/-- A parsed response: exactly the six fields of R131. -/
structure Response where
  statusByte : Byte
  toAddress : Byte
  fromAddress : Byte
  dataLength : Byte
  data : List Byte
  /-- First data byte, absent when `dataLength` is 0 (R70 c, R131). -/
  returnCode : Option Byte
  deriving DecidableEq, Repr

/-- The readable header of a frame that is not all there (R130 `Partial`). -/
structure Header where
  toAddress : Byte
  fromAddress : Byte
  statusByte : Byte
  dataLength : Byte
  deriving DecidableEq, Repr

/-- The result of `TRY_PARSE` (R130): `Short`, `Partial`, `Complete`. -/
inductive ParseResult where
  | short
  | partialFrame (header : Header)
  | complete (response : Response) (crcOk : Bool)
  deriving DecidableEq, Repr

/-- The eight flags of the status byte (R66, R150). -/
structure Status where
  mid : Bool
  sync : Bool
  busy : Bool
  aborted : Bool
  noRequest : Bool
  overflow : Bool
  invalid : Bool
  valid : Bool
  deriving DecidableEq, Repr

/-- The nine outcomes of a request (R200). -/
inductive ReqOutcome where
  | response
  | deviceReturnCodeError
  | checksumMismatch
  | deviceOverflow
  | deviceInvalidCommand
  | requestTimeout
  | writeTimeout
  | linkError
  | aborted
  deriving DecidableEq, Repr

/-- The cause delivered with `LinkError` (R200, R209). -/
inductive LinkCause where
  | closed
  | error
  deriving DecidableEq, Repr

/-- The info delivered with an outcome (R200). -/
inductive Info where
  | response (r : Response)
  | checksums (computed received : Word16)
  | status (b : Byte)
  | cause (c : LinkCause)
  | none
  deriving DecidableEq, Repr

/-- The output events (R82, R115, R210, R223). -/
inductive Event where
  /-- `TX(frame)`: the whole request frame, byte 0 first on the line. -/
  | tx (frame : List Byte)
  /-- `RESOLVE(outcome, success, info)`: the outstanding request ends. -/
  | resolve (outcome : ReqOutcome) (success : Bool) (info : Info)
  /-- `UNSOLICITED(response)`: a good frame with no request outstanding. -/
  | unsolicited (r : Response)
  deriving DecidableEq, Repr

/-- The immediate answer of an operation to its invoker (R82). -/
inductive Result where
  | ok
  /-- The value of `CRC_READ` or `CHECKSUM`. -/
  | word (v : Word16)
  /-- The frame `BUILD` returns. -/
  | frame (bytes : List Byte)
  /-- The value of `TRY_PARSE`. -/
  | parsed (r : ParseResult)
  /-- The value of `STATUS_DECODE`. -/
  | flags (f : Status)
  | accepted
  | busy
  | badLength
  | started
  | noFrame
  | notOpen
  | notWritable
  | done
  | noRequest
  | refused
  deriving DecidableEq, Repr

/-- The whole state of the block: the nine items of R10. -/
structure Block where
  /-- The 16-bit accumulator of the CRC unit (R11). -/
  crc : Word16
  /-- The sync sequencer (R12). -/
  syncState : SyncState
  /-- The link is open (R13). -/
  isOpen : Bool
  /-- The link is writable (R14). -/
  canWrite : Bool
  /-- The request register (R15). -/
  reqState : ReqState
  /-- The outbound frame of the pending request (R16). -/
  txFrame : List Byte
  /-- The receive buffer, offset 0 first (R17). -/
  rxBuf : List Byte
  /-- The idle timer is running (R18). -/
  idleArmed : Bool
  /-- Ticks since the last receive event while the timer runs (R19). -/
  idleCnt : Nat
  deriving DecidableEq, Repr

/-- One invocation the environment has queued (D1, log 1). -/
inductive Invocation where
  /-- Operations in the byte notation of 95_test_vectors.md section 8, run one after the other. -/
  | code (bytes : List Byte)
  /-- One operation as a value (D2: a model may use an inductive type), with operands of any length (log 2). -/
  | call (i : Instr)
  deriving DecidableEq, Repr

/-- The state of the machine: the block, and the model's own record of its transaction-level interface. -/
structure State extends Block where
  /-- MODEL'S OWN: what the environment will invoke, next first (log 1). -/
  inputs : List Invocation
  /-- MODEL'S OWN: the immediate results answered so far, oldest first (log 5). -/
  results : List Result
  /-- MODEL'S OWN: the output events emitted so far, oldest first (log 5). -/
  events : List Event
  deriving DecidableEq, Repr

/-- What one operation does: the block after it, its immediate result, the events it emits (R10). -/
structure Effect where
  block : Block
  result : Result
  events : List Event
  deriving DecidableEq, Repr

/-- No fault exists: "No operation traps, faults or throws" (R217). -/
inductive Fault where
  deriving DecidableEq, Repr

/-- Why a step gives no meaning. -/
inductive Refusal where
  /-- Raised by no arm of `exec` (every instruction has its meaning); the host's name for an arm without one. Safe. -/
  | notModelled (mnemonic : String)
  /-- Raised by `step` on queued bytes that are no operation in the notation of 95_test_vectors.md section 8: cut
  short, or starting with no 5-bit op code (log 3). Safe: the machine stops. -/
  | malformedCode (reason : DecodeError)
  deriving DecidableEq, Repr

/-- The block after `RESET` (R30). -/
def Block.reset : Block where
  crc := 0x7E7E
  syncState := .start
  isOpen := false
  canWrite := false
  reqState := .idle
  txFrame := []
  rxBuf := []
  idleArmed := false
  idleCnt := 0

/-- The machine right after reset: the block as R30 says; nothing queued, answered or emitted (logs 1, 5, 12). -/
def State.reset : State where
  toBlock := Block.reset
  inputs := []
  results := []
  events := []

end Sys2Proof.Machine
end

