-- ==== Sys2Proof/Machine/Flags.lean ====
section
/-! DEFINITION. The status byte's flags (R66, R150): the decode, its inverse, and the one test the block makes. -/

namespace Sys2Proof.Machine

/-- The eight flags of a status byte (R150). -/
def decodeStatus (b : Byte) : Status where
  mid := b.getLsbD 0
  sync := b.getLsbD 1
  busy := b.getLsbD 2
  aborted := b.getLsbD 3
  noRequest := b.getLsbD 4
  overflow := b.getLsbD 5
  invalid := b.getLsbD 6
  valid := b.getLsbD 7

/-- A flag at its place in the status byte. -/
def flagAt (f : Bool) (i : Nat) : Byte := (if f then (0x01 : Byte) else 0x00) <<< i

/-- `STATUS_ENCODE`, the inverse the spec gives for test benches (R152); no operation uses it. -/
def encodeStatus (s : Status) : Byte :=
  flagAt s.mid 0 ||| flagAt s.sync 1 ||| flagAt s.busy 2 ||| flagAt s.aborted 3 |||
    flagAt s.noRequest 4 ||| flagAt s.overflow 5 ||| flagAt s.invalid 6 ||| flagAt s.valid 7

/-- `(b & 0x60) != 0`: `overflow` or `invalid` is set (R151). -/
def statusFails (b : Byte) : Bool := (b &&& 0x60) != 0x00

end Sys2Proof.Machine
end

