-- ==== Sys2Proof/Machine/Operands.lean ====
section
/-! DEFINITION. Operand assembly (R70): splitting and joining the checksum, the length byte, the return code, the sync
value and the abort reason. -/

namespace Sys2Proof.Machine

/-- `lo8(v)`, bits 7 to 0 (R6). -/
def lo8 (v : Word16) : Byte := v.extractLsb' 0 8

/-- `hi8(v)`, bits 15 to 8 (R6). -/
def hi8 (v : Word16) : Byte := v.extractLsb' 8 8

/-- `zext_16(lo) | (zext_16(hi) << 8)`: a received checksum, low byte first (R45, R70 b). -/
def joinLoHi (lo hi : Byte) : Word16 := lo.setWidth 16 ||| (hi.setWidth 16 <<< 8)

/-- A sequence's length as an 8-bit number (R62, R70 a). -/
def lengthByte (l : List Byte) : Byte := BitVec.ofNat 8 l.length

/-- The return code: the first data byte, absent when there is none (R70 c, R131). -/
def returnCodeOf (data : List Byte) : Option Byte := data.head?

/-- `sync_value(s)` (R20). -/
def syncValue : SyncState → Byte
  | .start => Config.hw.syncStart
  | .a => Config.hw.syncA
  | .b => Config.hw.syncB

/-- The move of the sequencer at an accepted `ISSUE`: `START -> A`, `A -> B`, `B -> A` (R112). -/
def nextSync : SyncState → SyncState
  | .start => .a
  | .a => .b
  | .b => .a

/-- The outcome code of R200, a 4-bit number. -/
def outcomeCode : ReqOutcome → BitVec 4
  | .response => 0
  | .deviceReturnCodeError => 1
  | .checksumMismatch => 2
  | .deviceOverflow => 3
  | .deviceInvalidCommand => 4
  | .requestTimeout => 5
  | .writeTimeout => 6
  | .linkError => 7
  | .aborted => 8

/-- The `success` column of R200: `Response` alone. -/
def outcomeSuccess : ReqOutcome → Bool
  | .response => true
  | .deviceReturnCodeError => false
  | .checksumMismatch => false
  | .deviceOverflow => false
  | .deviceInvalidCommand => false
  | .requestTimeout => false
  | .writeTimeout => false
  | .linkError => false
  | .aborted => false

/-- The reason operand of `REQ_ABORT` as the outcome its code names: `WriteTimeout`, `Aborted`, or neither (R185). -/
def abortOutcome (reason : Byte) : Option ReqOutcome :=
  if reason = 6 then some .writeTimeout
  else if reason = 8 then some .aborted
  else none

end Sys2Proof.Machine
end

