-- ==== Sys2Proof/Machine/Ops.lean ====
section
/-! DEFINITION. The named operations every meaning is written over: committing an operation's effect, reading the
receive buffer, clearing it, and `raise`, the block's one analogue of taking an exception (R210). There is no return
from one (R216). -/

namespace Sys2Proof.Machine

/-- An operation's effect taken into the machine: all its writes at once, its answer and its events recorded (R8, R50). -/
def State.commit (s : State) (e : Effect) : State where
  toBlock := e.block
  inputs := s.inputs
  results := s.results ++ [e.result]
  events := s.events ++ e.events

/-- An operation that writes nothing and emits nothing: the effect of a refusing result and of a pure value (R82). -/
def Effect.answer (b : Block) (r : Result) : Effect where
  block := b
  result := r
  events := []

/-- `MemRead(addr, n)` on a byte sequence: the `n` bytes at `addr`, defined only inside it (R41). -/
def memRead (buf : List Byte) (addr n : Nat) : Option (List Byte) :=
  if addr + n ≤ buf.length then some ((buf.drop addr).take n) else none

/-- The byte at an offset. Every rule tests the length before it reads (R41), so the value outside is never used
(log 15). -/
def byteAt (buf : List Byte) (i : Nat) : Byte := buf.getD i 0x00

/-- `s[i..j)` (R7). -/
def slice (buf : List Byte) (i j : Nat) : List Byte := (buf.drop i).take (j - i)

/-- `RX_CLEAR()` (R138): the buffer is never cleared without the timer being disarmed. -/
def rxClear (b : Block) : Block := { b with rxBuf := [], idleArmed := false, idleCnt := 0 }

/-- The receive event's append and restart of the idle timer (R42, R135). -/
def rxAppend (b : Block) (bs : List Byte) : Block :=
  { b with rxBuf := b.rxBuf ++ bs, idleArmed := true, idleCnt := 0 }

/-- `raise X(info)` (R210): with a request outstanding, one `RESOLVE` and `req_state <- IDLE`; with none, nothing. -/
def raise (o : ReqOutcome) (info : Info) (b : Block) : Block × List Event :=
  match b.reqState with
  | .idle => (b, [])
  | .armed => ({ b with reqState := .idle }, [.resolve o (outcomeSuccess o) info])
  | .sent => ({ b with reqState := .idle }, [.resolve o (outcomeSuccess o) info])

/-- A raising operation's effect: what `raise` leaves, and the operation's answer. -/
def raiseAnswering (o : ReqOutcome) (info : Info) (b : Block) (r : Result) : Effect where
  block := (raise o info b).1
  result := r
  events := (raise o info b).2

/-- The sizes R16 allows `tx_frame`: empty, or a whole request frame of 8 to 263 bytes. `rx_buf` may be any sequence
(R17); both are lists, so equal memories are equal data (log 13). -/
def Memory.wf (b : Block) : Bool :=
  decide (b.txFrame = []) || (decide (8 ≤ b.txFrame.length) && decide (b.txFrame.length ≤ 263))

end Sys2Proof.Machine
end

