-- ==== Sys2Proof/Machine/Crc.lean ====
section
/-! DEFINITION. The CRC unit (40_crc.md): `CRC_LOAD`, `CRC_BIT`, `CRC_BYTE`, `CRC_READ`, `CHECKSUM`. -/

namespace Sys2Proof.Machine

/-- `BITSTEP(acc, d)` (R91): bit 15 tested before the shift, the data bit injected before the XOR. -/
def bitStep (acc : Word16) (d : Bool) : Word16 :=
  let t := (acc <<< 1) ||| (if d then (0x0001 : Word16) else 0x0000)
  if acc.getLsbD 15 then t ^^^ Config.hw.poly else t

/-- Eight bit steps, most significant bit first (R92). -/
def byteStep (acc : Word16) (b : Byte) : Word16 :=
  [7, 6, 5, 4, 3, 2, 1, 0].foldl (fun a i => bitStep a (b.getLsbD i)) acc

/-- `CHECKSUM bytes, seed` (R94): the byte steps of each byte in order. -/
def checksum (bytes : List Byte) (seed : Word16) : Word16 := bytes.foldl byteStep seed

/-- `CRC_LOAD v` (R90). -/
def execCrcLoad (v : Word16) (s : State) : Host.Outcome State Fault Refusal :=
  .next (s.commit { block := { s.toBlock with crc := v }, result := .ok, events := [] })

/-- `CRC_BIT d` (R91). -/
def execCrcBit (d : Bool) (s : State) : Host.Outcome State Fault Refusal :=
  .next (s.commit { block := { s.toBlock with crc := bitStep s.crc d }, result := .ok, events := [] })

/-- `CRC_BYTE b` (R92). -/
def execCrcByte (b : Byte) (s : State) : Host.Outcome State Fault Refusal :=
  .next (s.commit { block := { s.toBlock with crc := byteStep s.crc b }, result := .ok, events := [] })

/-- `CRC_READ` (R93): the accumulator as it stands. -/
def execCrcRead (s : State) : Host.Outcome State Fault Refusal :=
  .next (s.commit (.answer s.toBlock (.word s.crc)))

/-- `CHECKSUM bytes, seed` (R94): pure. -/
def execChecksum (bytes : List Byte) (seed : Word16) (s : State) : Host.Outcome State Fault Refusal :=
  .next (s.commit (.answer s.toBlock (.word (checksum bytes seed))))

end Sys2Proof.Machine
end

