-- ==== Sys2Proof/Machine/Encoder.lean ====
section
/-! DEFINITION. The frame encoder (41_encoder.md): `BUILD`, `ISSUE`, `WRITE_START`. -/

namespace Sys2Proof.Machine

/-- The bytes the checksum of a request frame covers: node, port, sync, length, payload (R63, R110). -/
def frameBody (node port sync : Byte) (payload : List Byte) : List Byte :=
  node :: port :: sync :: lengthByte payload :: payload

/-- The request frame (R60, R110), for a payload that fits its length byte. -/
def buildFrame (node port sync : Byte) (payload : List Byte) : List Byte :=
  let body := frameBody node port sync payload
  let c := checksum body Config.hw.seed
  [Config.hw.head, Config.hw.head] ++ body ++ [lo8 c, hi8 c]

/-- `BUILD node, port, sync, payload` (R110): pure; a payload over `MAX_PAYLOAD` is refused. -/
def buildResult (node port sync : Byte) (payload : List Byte) : Result :=
  if payload.length > Config.hw.maxPayload then .refused else .frame (buildFrame node port sync payload)

/-- `ISSUE node, port, payload` on the block (R113): the busy test first. -/
def issue (node port : Byte) (payload : List Byte) (b : Block) : Effect :=
  match b.reqState with
  | .armed => .answer b .busy
  | .sent => .answer b .busy
  | .idle =>
    if payload.length > Config.hw.maxPayload then .answer b .badLength
    else
      { block := { b with
          txFrame := buildFrame node port (syncValue b.syncState) payload
          syncState := nextSync b.syncState
          reqState := .armed }
        result := .accepted
        events := [] }

/-- `WRITE_START` on the block (R114). -/
def writeStart (b : Block) : Effect :=
  match b.reqState with
  | .idle => .answer b .noFrame
  | .sent => .answer b .noFrame
  | .armed =>
    if !b.isOpen then .answer b .notOpen
    else if !b.canWrite then .answer b .notWritable
    else
      { block := { b with canWrite := false, reqState := .sent }
        result := .started
        events := [.tx b.txFrame] }

/-- `BUILD node, port, sync, payload` (R110). -/
def execBuild (node port sync : Byte) (payload : List Byte) (s : State) : Host.Outcome State Fault Refusal :=
  .next (s.commit (.answer s.toBlock (buildResult node port sync payload)))

/-- `ISSUE node, port, payload` (R113). -/
def execIssue (node port : Byte) (payload : List Byte) (s : State) : Host.Outcome State Fault Refusal :=
  .next (s.commit (issue node port payload s.toBlock))

/-- `WRITE_START` (R114). -/
def execWriteStart (s : State) : Host.Outcome State Fault Refusal :=
  .next (s.commit (writeStart s.toBlock))

end Sys2Proof.Machine
end

