-- ==== Sys2Proof/Machine/Decoder.lean ====
section
/-! DEFINITION. The frame decoder (42_decoder.md): `TRY_PARSE`, `RX_DATA` with its status short-circuit, `RX_FLUSH`. -/

namespace Sys2Proof.Machine

/-- Where the frame's checksum stands: after the header and the data its length byte declares (R61, R132). -/
def crcOffset (buf : List Byte) : Nat := Config.hw.hdrLen + (byteAt buf 5).toNat

/-- The checksum a complete frame carries, low byte first (R45, R130). -/
def receivedChecksum (buf : List Byte) : Word16 :=
  joinLoHi (byteAt buf (crcOffset buf)) (byteAt buf (crcOffset buf + 1))

/-- The checksum computed over the covered bytes of a complete frame, offset 2 up to its checksum (R63, R132). -/
def computedChecksum (buf : List Byte) : Word16 :=
  checksum (slice buf 2 (crcOffset buf)) Config.hw.seed

/-- The Response a complete frame holds (R130, R131). -/
def responseOf (buf : List Byte) : Response :=
  let data := slice buf Config.hw.hdrLen (crcOffset buf)
  { statusByte := byteAt buf 4
    toAddress := byteAt buf 2
    fromAddress := byteAt buf 3
    dataLength := byteAt buf 5
    data := data
    returnCode := returnCodeOf data }

/-- The header of a frame of at least `HDR_LEN` bytes (R130). -/
def headerOf (buf : List Byte) : Header where
  toAddress := byteAt buf 2
  fromAddress := byteAt buf 3
  statusByte := byteAt buf 4
  dataLength := byteAt buf 5

/-- `TRY_PARSE buffer` (R130), always from offset 0. -/
def tryParse (buf : List Byte) : ParseResult :=
  if buf.length < Config.hw.hdrLen then .short
  else if buf.length < crcOffset buf + Config.hw.crcLen then .partialFrame (headerOf buf)
  else .complete (responseOf buf) (computedChecksum buf == receivedChecksum buf)

/-- The status test of R136 on a buffer: a readable header whose status byte has `overflow` or `invalid` set. -/
def shortCircuits (buf : List Byte) : Bool :=
  decide (Config.hw.hdrLen ≤ buf.length) && statusFails (byteAt buf 4)

/-- `DEVICE_FAIL(buf)` (R137): the buffer cleared, the request failed; `overflow` wins when both bits are set. -/
def deviceFail (buf : List Byte) (b : Block) : Block × List Event :=
  let st := byteAt buf 4
  raise (if st.getLsbD 5 then .deviceOverflow else .deviceInvalidCommand) (.status st) (rxClear b)

/-- `RX_DATA bs` on the block (R135): append, then the one status test on the whole buffer. -/
def rxData (bs : List Byte) (b : Block) : Effect :=
  if bs.isEmpty then .answer b .refused
  else if shortCircuits (b.rxBuf ++ bs) then
    { block := (deviceFail (b.rxBuf ++ bs) b).1
      result := .ok
      events := (deviceFail (b.rxBuf ++ bs) b).2 }
  else .answer (rxAppend b bs) .ok

/-- `TRY_PARSE buffer` (R130): pure. -/
def execTryParse (buffer : List Byte) (s : State) : Host.Outcome State Fault Refusal :=
  .next (s.commit (.answer s.toBlock (.parsed (tryParse buffer))))

/-- `RX_DATA bs` (R135). -/
def execRxData (bs : List Byte) (s : State) : Host.Outcome State Fault Refusal :=
  .next (s.commit (rxData bs s.toBlock))

/-- `RX_FLUSH` (R139). -/
def execRxFlush (s : State) : Host.Outcome State Fault Refusal :=
  .next (s.commit (.answer (rxClear s.toBlock) .ok))

end Sys2Proof.Machine
end

