-- ==== Sys2Proof/Machine/IdleDetector.lean ====
section
/-! DEFINITION. The idle detector (44_idle_detector.md): `TICK`, `IDLE_FIRE` and the disposition of the receive buffer. -/

namespace Sys2Proof.Machine

/-- `DELIVER(resp)` (R163): buffer cleared, link writable, the request resolved or the Response reported. -/
def deliver (resp : Response) (b : Block) : Block × List Event :=
  let b' := { rxClear b with canWrite := true }
  match b.reqState with
  | .idle => (b', [.unsolicited resp])
  | .armed => raise (if resp.returnCode = some 0x00 then .response else .deviceReturnCodeError) (.response resp) b'
  | .sent => raise (if resp.returnCode = some 0x00 then .response else .deviceReturnCodeError) (.response resp) b'

/-- `DISPOSE()` (R162): the five cases on the buffer as it stands, in the spec's order. -/
def dispose (b : Block) : Block × List Event :=
  match tryParse b.rxBuf with
  | .short => (b, [])
  | .partialFrame h => if statusFails h.statusByte then deviceFail b.rxBuf b else (b, [])
  | .complete resp crcOk =>
    if statusFails resp.statusByte then deviceFail b.rxBuf b
    else if crcOk then deliver resp b
    else
      raise .checksumMismatch (.checksums (computedChecksum b.rxBuf) (receivedChecksum b.rxBuf)) (rxClear b)

/-- `IDLE_FIRE()` on the block (R161): disarm, then dispose. -/
def idleFire (b : Block) : Block × List Event := dispose { b with idleArmed := false, idleCnt := 0 }

/-- An idle fire as an effect; it answers `OK` (R82, log 10). -/
def idleFireEffect (b : Block) : Effect where
  block := (idleFire b).1
  result := .ok
  events := (idleFire b).2

/-- `TICK` on the block for a quiet period of `tIdle` ticks (R160). -/
def tick (tIdle : Nat) (b : Block) : Effect :=
  if !b.idleArmed then .answer b .ok
  else if b.idleCnt + 1 < tIdle then .answer { b with idleCnt := b.idleCnt + 1 } .ok
  else idleFireEffect b

/-- `TICK` (R160), with the hardware's `T_IDLE`. -/
def execTick (s : State) : Host.Outcome State Fault Refusal :=
  .next (s.commit (tick Config.hw.tIdle s.toBlock))

/-- `IDLE_FIRE` (R161): the internal operation itself. Invoked from outside it is refused by the step (R83, log 10). -/
def execIdleFire (s : State) : Host.Outcome State Fault Refusal :=
  .next (s.commit (idleFireEffect s.toBlock))

end Sys2Proof.Machine
end

