-- ==== Sys2Proof/Machine/LinkRequest.lean ====
section
/-! DEFINITION. Link and request control (45_link_request.md): the link events, `REQ_TIMEOUT`, `REQ_ABORT`. -/

namespace Sys2Proof.Machine

/-- The link goes down: both link bits and the buffer cleared, the request failed (R181, R182). -/
def linkDown (cause : LinkCause) (b : Block) : Effect :=
  raiseAnswering .linkError (.cause cause) (rxClear { b with isOpen := false, canWrite := false }) .ok

/-- `REQ_TIMEOUT` on the block (R184). -/
def reqTimeout (b : Block) : Effect :=
  match b.reqState with
  | .idle => .answer b .noRequest
  | .armed => raiseAnswering .requestTimeout .none (rxClear { b with canWrite := true }) .done
  | .sent => raiseAnswering .requestTimeout .none (rxClear { b with canWrite := true }) .done

/-- `REQ_ABORT reason` on the block (R185): the reason is tested first. -/
def reqAbort (reason : Byte) (b : Block) : Effect :=
  match abortOutcome reason with
  | none => .answer b .refused
  | some o =>
    match b.reqState with
    | .idle => .answer b .noRequest
    | .armed => raiseAnswering o .none b .done
    | .sent => raiseAnswering o .none b .done

/-- `LINK_OPEN` (R180). -/
def execLinkOpen (s : State) : Host.Outcome State Fault Refusal :=
  .next (s.commit (.answer { s.toBlock with isOpen := true, canWrite := true, syncState := .start } .ok))

/-- `LINK_CLOSE` (R181). -/
def execLinkClose (s : State) : Host.Outcome State Fault Refusal :=
  .next (s.commit (linkDown .closed s.toBlock))

/-- `LINK_ERROR` (R182). -/
def execLinkError (s : State) : Host.Outcome State Fault Refusal :=
  .next (s.commit (linkDown .error s.toBlock))

/-- `LINK_DRAIN` (R183): writable again, while open. -/
def execLinkDrain (s : State) : Host.Outcome State Fault Refusal :=
  .next (s.commit (.answer { s.toBlock with canWrite := if s.isOpen then true else s.canWrite } .ok))

/-- `REQ_TIMEOUT` (R184). -/
def execReqTimeout (s : State) : Host.Outcome State Fault Refusal :=
  .next (s.commit (reqTimeout s.toBlock))

/-- `REQ_ABORT reason` (R185). -/
def execReqAbort (reason : Byte) (s : State) : Host.Outcome State Fault Refusal :=
  .next (s.commit (reqAbort reason s.toBlock))

end Sys2Proof.Machine
end

