-- ==== Sys2Proof/Machine/MeterRequests.lean ====
section
/-! DEFINITION. The sixteen meter requests (R75): the block carries the opcode and its operand bytes unread, so each is
the `ISSUE` of the payload that starts with its opcode (R75, R76, R113, log 8). -/

namespace Sys2Proof.Machine

/-- Issue the request whose payload byte 0 is the meter opcode. -/
def requestWith (opcode node port : Byte) (operands : List Byte) (s : State) : Host.Outcome State Fault Refusal :=
  .next (s.commit (issue node port (opcode :: operands) s.toBlock))

/-- `GET_PRODUCT_ID`, payload byte 0 = 0x00 (R75). -/
def execGetProductId (node port : Byte) (operands : List Byte) (s : State) : Host.Outcome State Fault Refusal :=
  requestWith 0x00 node port operands s

/-- `GET_FIELD`, payload byte 0 = 0x20 (R75). -/
def execGetField (node port : Byte) (operands : List Byte) (s : State) : Host.Outcome State Fault Refusal :=
  requestWith 0x20 node port operands s

/-- `SET_FIELD`, payload byte 0 = 0x21 (R75). -/
def execSetField (node port : Byte) (operands : List Byte) (s : State) : Host.Outcome State Fault Refusal :=
  requestWith 0x21 node port operands s

/-- `MACHINE_STATUS`, payload byte 0 = 0x23 (R75). -/
def execMachineStatus (node port : Byte) (operands : List Byte) (s : State) : Host.Outcome State Fault Refusal :=
  requestWith 0x23 node port operands s

/-- `ISSUE_COMMAND`, payload byte 0 = 0x24 (R75). -/
def execIssueCommand (node port : Byte) (operands : List Byte) (s : State) : Host.Outcome State Fault Refusal :=
  requestWith 0x24 node port operands s

/-- `GET_VERSION`, payload byte 0 = 0x26 (R75). -/
def execGetVersion (node port : Byte) (operands : List Byte) (s : State) : Host.Outcome State Fault Refusal :=
  requestWith 0x26 node port operands s

/-- `GET_SECURITY`, payload byte 0 = 0x27 (R75). -/
def execGetSecurity (node port : Byte) (operands : List Byte) (s : State) : Host.Outcome State Fault Refusal :=
  requestWith 0x27 node port operands s

/-- `DELIVERY_STATUS`, payload byte 0 = 0x28 (R75). -/
def execDeliveryStatus (node port : Byte) (operands : List Byte) (s : State) : Host.Outcome State Fault Refusal :=
  requestWith 0x28 node port operands s

/-- `START_PAUSE_DELIVERY`, payload byte 0 = 0x29 (R75). -/
def execStartPauseDelivery (node port : Byte) (operands : List Byte) (s : State) : Host.Outcome State Fault Refusal :=
  requestWith 0x29 node port operands s

/-- `GET_TRANSACTION`, payload byte 0 = 0x2A (R75). -/
def execGetTransaction (node port : Byte) (operands : List Byte) (s : State) : Host.Outcome State Fault Refusal :=
  requestWith 0x2A node port operands s

/-- `DELETE_TRANSACTION`, payload byte 0 = 0x2B (R75). -/
def execDeleteTransaction (node port : Byte) (operands : List Byte) (s : State) : Host.Outcome State Fault Refusal :=
  requestWith 0x2B node port operands s

/-- `GET_FIELD_PARAMS`, payload byte 0 = 0x7B (R75). -/
def execGetFieldParams (node port : Byte) (operands : List Byte) (s : State) : Host.Outcome State Fault Refusal :=
  requestWith 0x7B node port operands s

/-- `SET_BAUD_RATE`, payload byte 0 = 0x7C (R75). -/
def execSetBaudRate (node port : Byte) (operands : List Byte) (s : State) : Host.Outcome State Fault Refusal :=
  requestWith 0x7C node port operands s

/-- `CHECK_LAST_REQUEST`, payload byte 0 = 0x7D (R75). -/
def execCheckLastRequest (node port : Byte) (operands : List Byte) (s : State) : Host.Outcome State Fault Refusal :=
  requestWith 0x7D node port operands s

/-- `ABORT_REQUEST`, payload byte 0 = 0x7E (R75). -/
def execAbortRequest (node port : Byte) (operands : List Byte) (s : State) : Host.Outcome State Fault Refusal :=
  requestWith 0x7E node port operands s

/-- `GET_FIELD_PARAMS2`, payload byte 0 = 0x7F (R75). -/
def execGetFieldParams2 (node port : Byte) (operands : List Byte) (s : State) : Host.Outcome State Fault Refusal :=
  requestWith 0x7F node port operands s

end Sys2Proof.Machine
end

