-- ==== Sys2Proof/Machine/ResetOp.lean ====
section
/-! DEFINITION. `RESET` (70_reset_and_hazards.md R230). -/

namespace Sys2Proof.Machine

/-- What `RESET` writes, as R230 lists it. -/
def resetBlock : Block where
  crc := Config.hw.seed
  syncState := .start
  isOpen := false
  canWrite := false
  reqState := .idle
  txFrame := []
  rxBuf := []
  idleArmed := false
  idleCnt := 0

/-- `RESET` (R230): no event, an outstanding request is dropped. -/
def execReset (s : State) : Host.Outcome State Fault Refusal :=
  .next (s.commit (.answer resetBlock .ok))

end Sys2Proof.Machine
end

