-- ==== Sys2Proof/Machine/StatusParser.lean ====
section
/-! DEFINITION. The status parser (43_status_parser.md): `STATUS_DECODE`. -/

namespace Sys2Proof.Machine

/-- `STATUS_DECODE b` (R150): pure. -/
def execStatusDecode (b : Byte) (s : State) : Host.Outcome State Fault Refusal :=
  .next (s.commit (.answer s.toBlock (.flags (decodeStatus b))))

end Sys2Proof.Machine
end

