-- ==== Sys2Proof/Machine/Dispatch.lean ====
section
/-! DEFINITION. The dispatch: one arm per instruction, each one direct call of its meaning. -/

namespace Sys2Proof.Machine

def exec (i : Instr) (s : State) : Host.Outcome State Fault Refusal :=
  match i with
  | .reset => Sys2Proof.Machine.execReset s
  | .crcLoad v => Sys2Proof.Machine.execCrcLoad v s
  | .crcBit d => Sys2Proof.Machine.execCrcBit d s
  | .crcByte b => Sys2Proof.Machine.execCrcByte b s
  | .crcRead => Sys2Proof.Machine.execCrcRead s
  | .checksum bytes seed => Sys2Proof.Machine.execChecksum bytes seed s
  | .build node port sync payload => Sys2Proof.Machine.execBuild node port sync payload s
  | .issue node port payload => Sys2Proof.Machine.execIssue node port payload s
  | .writeStart => Sys2Proof.Machine.execWriteStart s
  | .tryParse buffer => Sys2Proof.Machine.execTryParse buffer s
  | .rxData bs => Sys2Proof.Machine.execRxData bs s
  | .rxFlush => Sys2Proof.Machine.execRxFlush s
  | .statusDecode b => Sys2Proof.Machine.execStatusDecode b s
  | .tick => Sys2Proof.Machine.execTick s
  | .idleFire => Sys2Proof.Machine.execIdleFire s
  | .linkOpen => Sys2Proof.Machine.execLinkOpen s
  | .linkClose => Sys2Proof.Machine.execLinkClose s
  | .linkError => Sys2Proof.Machine.execLinkError s
  | .linkDrain => Sys2Proof.Machine.execLinkDrain s
  | .reqTimeout => Sys2Proof.Machine.execReqTimeout s
  | .reqAbort reason => Sys2Proof.Machine.execReqAbort reason s
  | .getProductId node port ops => Sys2Proof.Machine.execGetProductId node port ops s
  | .getField node port ops => Sys2Proof.Machine.execGetField node port ops s
  | .setField node port ops => Sys2Proof.Machine.execSetField node port ops s
  | .machineStatus node port ops => Sys2Proof.Machine.execMachineStatus node port ops s
  | .issueCommand node port ops => Sys2Proof.Machine.execIssueCommand node port ops s
  | .getVersion node port ops => Sys2Proof.Machine.execGetVersion node port ops s
  | .getSecurity node port ops => Sys2Proof.Machine.execGetSecurity node port ops s
  | .deliveryStatus node port ops => Sys2Proof.Machine.execDeliveryStatus node port ops s
  | .startPauseDelivery node port ops => Sys2Proof.Machine.execStartPauseDelivery node port ops s
  | .getTransaction node port ops => Sys2Proof.Machine.execGetTransaction node port ops s
  | .deleteTransaction node port ops => Sys2Proof.Machine.execDeleteTransaction node port ops s
  | .getFieldParams node port ops => Sys2Proof.Machine.execGetFieldParams node port ops s
  | .setBaudRate node port ops => Sys2Proof.Machine.execSetBaudRate node port ops s
  | .checkLastRequest node port ops => Sys2Proof.Machine.execCheckLastRequest node port ops s
  | .abortRequest node port ops => Sys2Proof.Machine.execAbortRequest node port ops s
  | .getFieldParams2 node port ops => Sys2Proof.Machine.execGetFieldParams2 node port ops s

end Sys2Proof.Machine
end

