-- ==== Sys2Proof/Machine/Invoke.lean ====
section
/-! DEFINITION. Taking the next invocation off the queue (R80, R83): which operation it is, or that it selects none. -/

namespace Sys2Proof.Machine

/-- What the head of the queue asks for, and the queue after it. -/
inductive Fetched where
  /-- Nothing is queued. -/
  | nothing
  /-- An operation to run. -/
  | run (i : Instr) (rest : List Invocation)
  /-- A reserved op code, or the internal operation from outside: `REFUSED` (R83). -/
  | turnedAway (rest : List Invocation)
  /-- Bytes that are no operation in the notation (log 3). -/
  | malformed (reason : DecodeError)
  deriving DecidableEq, Repr

/-- `IDLE_FIRE` is internal: only `TICK` invokes it (R80, R161). -/
def isInternal (i : Instr) : Bool := decide (i = .idleFire)

/-- What is left of a run of bytes, back at the head of the queue. -/
def pushCode (left : List Byte) (rest : List Invocation) : List Invocation :=
  if left.isEmpty then rest else .code left :: rest

/-- An operation from outside: run, unless it is the internal one (R83). -/
def fromOutside (i : Instr) (rest : List Invocation) : Fetched :=
  if isInternal i then .turnedAway rest else .run i rest

/-- The first operation of a run of bytes; a reserved op code takes its own byte (R83, log 4). -/
def fetchCode (bytes : List Byte) (rest : List Invocation) : Fetched :=
  match decode bytes with
  | .ok (i, left) => fromOutside i (pushCode left rest)
  | .error (.reservedOp _) => .turnedAway (pushCode (bytes.drop 1) rest)
  | .error e => .malformed e

/-- The next invocation of the queue; an empty run of bytes invokes nothing. -/
def fetch : List Invocation → Fetched
  | [] => .nothing
  | .call i :: rest => fromOutside i rest
  | .code bytes :: rest => if bytes.isEmpty then fetch rest else fetchCode bytes rest

/-- The answer to an invocation that selects no operation: `REFUSED`, no state change, no event (R83). -/
def answerRefused (s : State) : State := s.commit (.answer s.toBlock .refused)

end Sys2Proof.Machine
end

