-- ==== Sys2Proof/Machine/Step.lean ====
section
/-! DEFINITION. One step: the next queued invocation, taken as one atomic operation (R50, R53). -/

namespace Sys2Proof.Machine

/-- One step. With nothing queued no internal step is enabled and the state stays (R231, log 18). -/
def step (s : State) : Host.Outcome State Fault Refusal :=
  match fetch s.inputs with
  | .nothing => .next s
  | .run i rest => exec i { s with inputs := rest }
  | .turnedAway rest => .next (answerRefused { s with inputs := rest })
  | .malformed reason => .refused (.malformedCode reason)

/-- The state with the operation of a table word queued first (logs 9, 12). -/
def State.withFetchWord (s : State) (nbits w : Nat) : State :=
  { s with inputs := .code (firstOperationBytes (tableBytes nbits w)) :: s.inputs }

end Sys2Proof.Machine
end

