-- ==== Sys2Proof/Safety.lean ====
section
/-! DEFINITION. What the claims are stated in: the invariant of R22, runs of operations, what an answer leaves, and
which operations and results belong to a class the spec names. -/

namespace Sys2Proof.Machine

/-- The invariants of R22 and R16: what holds after `RESET` and after every operation. -/
structure Block.Inv (b : Block) : Prop where
  /-- R22 (a): a disarmed timer counts nothing. -/
  disarmedCount : b.idleArmed = false → b.idleCnt = 0
  /-- R22 (a): the count is below `T_IDLE`. -/
  countBelow : b.idleCnt < Config.hw.tIdle
  /-- R22 (b): an empty buffer has no timer running. -/
  emptyDisarmed : b.rxBuf = [] → b.idleArmed = false
  /-- R22 (c): a readable status byte has neither `overflow` nor `invalid` set. -/
  statusClear : 6 ≤ b.rxBuf.length → statusFails (byteAt b.rxBuf 4) = false
  /-- R22 (d): an outstanding request has its frame. -/
  pendingFrame : b.reqState ≠ .idle → 8 ≤ b.txFrame.length
  /-- R16: the frame register is empty or holds a frame the encoder built for one of the three sync values. -/
  frameBuilt : b.txFrame = [] ∨ ∃ node port st payload, payload.length ≤ 255 ∧
    b.txFrame = buildFrame node port (syncValue st) payload

/-- A state whose block meets the invariant; what is queued, answered and emitted is free. -/
def State.Inv (s : State) : Prop := s.toBlock.Inv

/-- A run of operations, each invoked when the one before it has completed (R50, R53); none if one does not complete. -/
def execAll : List Instr → State → Option State
  | [], s => some s
  | i :: is, s =>
    match exec i s with
    | .next t => execAll is t
    | .fault _ => none
    | .refused _ => none

/-- The state after an operation that only answers. -/
def State.answered (s : State) (r : Result) : State := { s with results := s.results ++ [r] }

/-- The state after an event is emitted. -/
def State.emitting (s : State) (e : Event) : State := { s with events := s.events ++ [e] }

/-- A refusing result: one that is none of `OK`, `ACCEPTED`, `STARTED`, `DONE` and no value (R82). -/
def Result.refuses : Result → Bool
  | .ok => false
  | .word _ => false
  | .frame _ => false
  | .parsed _ => false
  | .flags _ => false
  | .accepted => false
  | .busy => true
  | .badLength => true
  | .started => false
  | .noFrame => true
  | .notOpen => true
  | .notWritable => true
  | .done => false
  | .noRequest => true
  | .refused => true

/-- The request an instruction issues: node, port and payload, for `ISSUE` and the sixteen meter requests (R75, R113). -/
def requestOf : Instr → Option (Byte × Byte × List Byte)
  | .reset => none
  | .crcLoad _ => none
  | .crcBit _ => none
  | .crcByte _ => none
  | .crcRead => none
  | .checksum _ _ => none
  | .build _ _ _ _ => none
  | .issue node port payload => some (node, port, payload)
  | .writeStart => none
  | .tryParse _ => none
  | .rxData _ => none
  | .rxFlush => none
  | .statusDecode _ => none
  | .tick => none
  | .idleFire => none
  | .linkOpen => none
  | .linkClose => none
  | .linkError => none
  | .linkDrain => none
  | .reqTimeout => none
  | .reqAbort _ => none
  | .getProductId node port ops => some (node, port, 0x00 :: ops)
  | .getField node port ops => some (node, port, 0x20 :: ops)
  | .setField node port ops => some (node, port, 0x21 :: ops)
  | .machineStatus node port ops => some (node, port, 0x23 :: ops)
  | .issueCommand node port ops => some (node, port, 0x24 :: ops)
  | .getVersion node port ops => some (node, port, 0x26 :: ops)
  | .getSecurity node port ops => some (node, port, 0x27 :: ops)
  | .deliveryStatus node port ops => some (node, port, 0x28 :: ops)
  | .startPauseDelivery node port ops => some (node, port, 0x29 :: ops)
  | .getTransaction node port ops => some (node, port, 0x2A :: ops)
  | .deleteTransaction node port ops => some (node, port, 0x2B :: ops)
  | .getFieldParams node port ops => some (node, port, 0x7B :: ops)
  | .setBaudRate node port ops => some (node, port, 0x7C :: ops)
  | .checkLastRequest node port ops => some (node, port, 0x7D :: ops)
  | .abortRequest node port ops => some (node, port, 0x7E :: ops)
  | .getFieldParams2 node port ops => some (node, port, 0x7F :: ops)

/-- The operation runs an idle fire: `IDLE_FIRE` itself, or the `TICK` that completes `T_IDLE` (R160, R161). -/
def firesIdle (i : Instr) (b : Block) : Prop :=
  i = .idleFire ∨ (i = .tick ∧ b.idleArmed = true ∧ Config.hw.tIdle ≤ b.idleCnt + 1)

/-- What clears the receive buffer (R17): an idle fire on a whole frame or on a failing status byte, the short-circuit
of `RX_DATA`, `REQ_TIMEOUT`, `LINK_CLOSE`, `LINK_ERROR`, `RX_FLUSH` and `RESET`. -/
def clearsBuffer (i : Instr) (b : Block) : Prop :=
  (firesIdle i b ∧ ((∃ r k, tryParse b.rxBuf = .complete r k) ∨ shortCircuits b.rxBuf = true)) ∨
  (∃ bs, i = .rxData bs ∧ bs ≠ [] ∧ shortCircuits (b.rxBuf ++ bs) = true) ∨
  i ∈ ([.reqTimeout, .linkClose, .linkError, .rxFlush, .reset] : List Instr)

/-- Whether an event resolves the outstanding request. -/
def Event.resolves : Event → Bool
  | .tx _ => false
  | .resolve _ _ _ => true
  | .unsolicited _ => false

/-- Outstanding requests, none or one (R20 `pending`). -/
def Block.pendingCount (b : Block) : Nat :=
  match b.reqState with
  | .idle => 0
  | .armed => 1
  | .sent => 1

end Sys2Proof.Machine
end

