-- ==== Sys2Proof/Certificates/Slice0/Obligations.lean ====
section
/-! DEFINITION. The statements for the provers, from the numbered rules of spec/. -/

open Sys2Proof Sys2Proof.Machine

/-! ### Reset and the step -/

/-- R30: the state after reset is exactly the nine values listed. -/
def Obligations.ResetStateIsAsListed : Prop :=
  State.reset.toBlock =
    { crc := 0x7E7E, syncState := .start, isOpen := false, canWrite := false, reqState := .idle, txFrame := [],
      rxBuf := [], idleArmed := false, idleCnt := 0 }

/-- R230: `RESET` gives every item its reset value from every state, answers `OK` and emits nothing. -/
def Obligations.ResetRestoresEveryItem : Prop :=
  ∀ s : State, exec .reset s = .next
    { crc := 0x7E7E, syncState := .start, isOpen := false, canWrite := false, reqState := .idle, txFrame := [],
      rxBuf := [], idleArmed := false, idleCnt := 0,
      inputs := s.inputs, results := s.results ++ [.ok], events := s.events }

/-- The step runs the operation queued first, written as bytes or given as a value, with the queue moved past it
(logs 1, 2: the queue is the model's own), and refuses bytes that are no operation, by name (log 3: the model's
choice). -/
def Obligations.StepRunsTheQueuedOperation : Prop :=
  (∀ (s : State) (bytes left : List Byte) (rest : List Invocation) (i : Instr),
    s.inputs = .code bytes :: rest → decode bytes = .ok (i, left) → i ≠ .idleFire →
      step s = exec i { s with inputs := if left = [] then rest else .code left :: rest }) ∧
  (∀ (s : State) (rest : List Invocation) (i : Instr), s.inputs = .call i :: rest → i ≠ .idleFire →
      step s = exec i { s with inputs := rest }) ∧
  (∀ (s : State) (bytes : List Byte) (rest : List Invocation) (e : DecodeError),
    s.inputs = .code bytes :: rest → bytes ≠ [] → decode bytes = .error e → (∀ code, e ≠ .reservedOp code) →
      step s = .refused (.malformedCode e))

/-- R83: a reserved op code, and `IDLE_FIRE` from outside, answer `REFUSED` and change nothing. The queue moves past the
one byte of the code (log 4). -/
def Obligations.ReservedAndInternalCodesAreRefused : Prop :=
  (∀ (s : State) (code : Byte) (bytes : List Byte) (rest : List Invocation),
    s.inputs = .code (code :: bytes) :: rest → (0x15 ≤ code.toNat ∧ code.toNat ≤ 0x1F) ∨ code.toNat = 0x0E →
      step s = .next
        ({ s with inputs := if bytes = [] then rest else .code bytes :: rest }.answered .refused)) ∧
  (∀ (s : State) (rest : List Invocation), s.inputs = .call .idleFire :: rest →
      step s = .next ({ s with inputs := rest }.answered .refused))

/-- R231: after reset, as in every state, nothing happens until an operation is invoked. -/
def Obligations.NothingHappensUninvoked : Prop :=
  step State.reset = .next State.reset ∧ ∀ s : State, s.inputs = [] → step s = .next s

/-- R217, R82: every operation is total: it answers one result, and a refusing result changes nothing and emits
nothing. What is queued and what was answered and emitted before stays. -/
def Obligations.EveryOperationIsTotal : Prop :=
  ∀ (i : Instr) (s : State), ∃ (t : State) (r : Result) (es : List Event),
    exec i s = .next t ∧ t.results = s.results ++ [r] ∧ t.events = s.events ++ es ∧ t.inputs = s.inputs ∧
    (r.refuses = true → t.toBlock = s.toBlock ∧ es = [])

/-! ### CRC unit -/

/-- R90: `CRC_LOAD v` leaves `crc = v`. -/
def Obligations.CrcLoadSetsTheRegister : Prop :=
  ∀ (v : Word16) (s : State), exec (.crcLoad v) s = .next { s.answered .ok with crc := v }

/-- R93: `CRC_READ` answers the register as it stands and changes nothing. -/
def Obligations.CrcReadAnswersTheRegister : Prop :=
  ∀ s : State, exec .crcRead s = .next (s.answered (.word s.crc))

/-- R91: test bit 15, shift left, inject the data bit, then XOR with the polynomial. -/
def Obligations.CrcBitShiftsInjectsThenXors : Prop :=
  ∀ (d : Bool) (s : State),
    let t : Word16 := (s.crc <<< 1) ||| (BitVec.ofBool d).setWidth 16
    exec (.crcBit d) s =
      .next { s.answered .ok with crc := if s.crc.getLsbD 15 then t ^^^ 0x1021 else t }

/-- R92: `CRC_BYTE b` is eight `CRC_BIT` steps, bit 7 first. -/
def Obligations.CrcByteIsEightCrcBits : Prop :=
  ∀ (b : Byte) (s : State), ∃ t : State,
    execAll ([7, 6, 5, 4, 3, 2, 1, 0].map fun i => .crcBit (b.getLsbD i)) s = some t ∧
    exec (.crcByte b) s = .next { s.answered .ok with crc := t.crc }

/-- R99: the byte-at-a-time form, the table entry being what `CRC_BYTE 00` leaves on `(crc >> 8) << 8`. -/
def Obligations.CrcByteTableForm : Prop :=
  ∀ (b : Byte) (s : State), ∃ u : State,
    exec (.crcByte 0x00) { s with crc := (s.crc >>> 8) <<< 8 } = .next u ∧
    exec (.crcByte b) s =
      .next { s.answered .ok with crc := ((s.crc <<< 8) ||| b.setWidth 16) ^^^ u.crc }

/-- R94: `CHECKSUM` answers what `CRC_LOAD seed`, then `CRC_BYTE` of each byte, leave in the register, and touches
nothing. -/
def Obligations.ChecksumIsTheRegisterSequence : Prop :=
  ∀ (bytes : List Byte) (seed : Word16) (s : State), ∃ t : State,
    execAll (.crcLoad seed :: bytes.map .crcByte) s = some t ∧
    exec (.checksum bytes seed) s = .next (s.answered (.word t.crc)) ∧
    t.crc = checksum bytes seed

/-- R97: `CHECKSUM(M, S) = (S * x^(8n) + M) mod P` over GF(2), `P = x^16 + x^12 + x^5 + 1`. -/
def Obligations.ChecksumIsThePolynomialRemainder : Prop :=
  let P : Polynomial (ZMod 2) := Polynomial.X ^ 16 + Polynomial.X ^ 12 + Polynomial.X ^ 5 + 1
  let poly : Nat → (Nat → Bool) → Polynomial (ZMod 2) := fun n bit =>
    ∑ i ∈ Finset.range n, if bit i then Polynomial.X ^ i else 0
  ∀ (m : List Byte) (seed : Word16),
    poly 16 (checksum m seed).getLsbD =
      (poly 16 seed.getLsbD * Polynomial.X ^ (8 * m.length) +
        m.foldl (fun acc b => acc * Polynomial.X ^ 8 + poly 8 b.getLsbD) 0) %ₘ P

/-- R98: linearity, zero, and the effect of a flipped bit of the last and the last but one byte. -/
def Obligations.ChecksumIsLinear : Prop :=
  (∀ (m1 m2 : List Byte) (s1 s2 : Word16), m1.length = m2.length →
    checksum (List.zipWith (· ^^^ ·) m1 m2) (s1 ^^^ s2) = checksum m1 s1 ^^^ checksum m2 s2) ∧
  (∀ n : Nat, checksum (List.replicate n 0x00) 0x0000 = 0x0000) ∧
  (∀ (m : List Byte) (b : Byte) (k : Nat) (seed : Word16), k < 8 →
    checksum (m ++ [b ^^^ ((0x01 : Byte) <<< k)]) seed = checksum (m ++ [b]) seed ^^^ ((0x0001 : Word16) <<< k)) ∧
  (∀ (m : List Byte) (b c : Byte) (k : Nat) (seed : Word16), k < 8 →
    checksum (m ++ [b ^^^ ((0x01 : Byte) <<< k), c]) seed = checksum (m ++ [b, c]) seed ^^^ ((0x0001 : Word16) <<< (8 + k)))

/-! ### Encoder -/

/-- R110: `BUILD` answers the frame of R60 for a payload of at most 255 bytes and refuses a longer one; it is pure. -/
def Obligations.BuildMakesTheRequestFrame : Prop :=
  ∀ (node port sync : Byte) (payload : List Byte) (s : State),
    (payload.length ≤ 255 →
      let body : List Byte := ([node, port, sync, BitVec.ofNat 8 payload.length] : List Byte) ++ payload
      let c : Word16 := checksum body 0x7E7E
      exec (.build node port sync payload) s =
        .next (s.answered (.frame (([0x7E, 0x7E] : List Byte) ++ body ++ [c.setWidth 8, (c >>> 8).setWidth 8])))) ∧
    (255 < payload.length → exec (.build node port sync payload) s = .next (s.answered .refused))

/-- R111, R100: a built frame's length, its fixed bytes, its checksum round trip, what it parses as looped back, and that
`BUILD` is injective. -/
def Obligations.BuiltFramesRoundTrip : Prop :=
  (∀ (node port sync : Byte) (payload : List Byte), payload.length ≤ 255 →
    let f := buildFrame node port sync payload
    let n := payload.length
    f.length = 8 + n ∧ f[0]? = some 0x7E ∧ f[1]? = some 0x7E ∧ f[5]?.map BitVec.toNat = some n ∧
    (∃ lo hi : Byte, f[6 + n]? = some lo ∧ f[7 + n]? = some hi ∧
      checksum ((f.drop 2).take (4 + n)) 0x7E7E = lo.setWidth 16 ||| (hi.setWidth 16 <<< 8)) ∧
    tryParse f = .complete
      { statusByte := sync, toAddress := node, fromAddress := port, dataLength := BitVec.ofNat 8 n, data := payload,
        returnCode := payload.head? } true ∧
    (sync ∈ [(0x02 : Byte), 0x01, 0x00] → (decodeStatus sync).overflow = false ∧ (decodeStatus sync).invalid = false)) ∧
  (∀ (n1 p1 s1 n2 p2 s2 : Byte) (l1 l2 : List Byte), l1.length ≤ 255 → l2.length ≤ 255 →
    buildFrame n1 p1 s1 l1 = buildFrame n2 p2 s2 l2 → n1 = n2 ∧ p1 = p2 ∧ s1 = s2 ∧ l1 = l2)

/-- R113: `ISSUE` answers `BUSY` while a request is outstanding, then `BAD_LENGTH` for a long payload, else stores the
frame with the sequencer's sync byte, moves the sequencer and arms the request. -/
def Obligations.IssueArmsOneRequest : Prop :=
  ∀ (node port : Byte) (payload : List Byte) (s : State),
    (s.reqState ≠ .idle → exec (.issue node port payload) s = .next (s.answered .busy)) ∧
    (s.reqState = .idle → 255 < payload.length →
      exec (.issue node port payload) s = .next (s.answered .badLength)) ∧
    (s.reqState = .idle → payload.length ≤ 255 →
      ∃ (sync : Byte) (next : SyncState),
        (s.syncState = .start ∧ sync = 0x02 ∧ next = .a ∨ s.syncState = .a ∧ sync = 0x01 ∧ next = .b ∨
          s.syncState = .b ∧ sync = 0x00 ∧ next = .a) ∧
        exec (.issue node port payload) s = .next
          { s.answered .accepted with
            txFrame := buildFrame node port sync payload, syncState := next, reqState := .armed })

/-- The sixteen meter requests issue the payload that starts with their opcode and carry it unread: with no request
outstanding and at most 254 operand bytes the frame is stored and the request armed; otherwise they answer as the `ISSUE`
does. That a row is the request that carries its opcode is the model's reading (log 8); the opcode values are R75's. -/
def Obligations.MeterRequestsIssueTheirOpcode : Prop :=
  ∀ (node port : Byte) (ops : List Byte) (s : State) (i : Instr) (opcode : Byte),
    (i, opcode) ∈ ([(.getProductId node port ops, 0x00), (.getField node port ops, 0x20),
      (.setField node port ops, 0x21), (.machineStatus node port ops, 0x23), (.issueCommand node port ops, 0x24),
      (.getVersion node port ops, 0x26), (.getSecurity node port ops, 0x27), (.deliveryStatus node port ops, 0x28),
      (.startPauseDelivery node port ops, 0x29), (.getTransaction node port ops, 0x2A),
      (.deleteTransaction node port ops, 0x2B), (.getFieldParams node port ops, 0x7B),
      (.setBaudRate node port ops, 0x7C), (.checkLastRequest node port ops, 0x7D),
      (.abortRequest node port ops, 0x7E), (.getFieldParams2 node port ops, 0x7F)] : List (Instr × Byte)) →
    (s.reqState = .idle → ops.length ≤ 254 →
      exec i s = .next
        { s.answered .accepted with
          txFrame := buildFrame node port (syncValue s.syncState) (opcode :: ops)
          syncState := nextSync s.syncState
          reqState := .armed }) ∧
    (s.reqState = .idle → 254 < ops.length → exec i s = .next (s.answered .badLength)) ∧
    (s.reqState ≠ .idle → exec i s = .next (s.answered .busy))

/-- R112: who moves the sync sequencer, and how; the frame an accepted request stores carries the value before the
move. -/
def Obligations.SyncSequencerMovesOnlyAsListed : Prop :=
  ∀ (i : Instr) (s t : State), exec i s = .next t →
    (i = .reset ∨ i = .linkOpen → t.syncState = .start) ∧
    (t.results = s.results ++ [.accepted] →
      t.txFrame[4]? = some (match s.syncState with | .start => (0x02 : Byte) | .a => 0x01 | .b => 0x00) ∧
      t.syncState = match s.syncState with | .start => .a | .a => .b | .b => .a) ∧
    (i ≠ .reset → i ≠ .linkOpen → t.results ≠ s.results ++ [.accepted] → t.syncState = s.syncState)

/-- R114: one attempt of the write: `NO_FRAME`, `NOT_OPEN`, `NOT_WRITABLE` change nothing; else the stored frame goes
out. -/
def Obligations.WriteStartSendsTheStoredFrame : Prop :=
  ∀ s : State,
    (s.reqState ≠ .armed → exec .writeStart s = .next (s.answered .noFrame)) ∧
    (s.reqState = .armed → s.isOpen = false → exec .writeStart s = .next (s.answered .notOpen)) ∧
    (s.reqState = .armed → s.isOpen = true → s.canWrite = false →
      exec .writeStart s = .next (s.answered .notWritable)) ∧
    (s.reqState = .armed → s.isOpen = true → s.canWrite = true →
      exec .writeStart s = .next
        { (s.answered .started).emitting (.tx s.txFrame) with canWrite := false, reqState := .sent })

/-! ### Decoder and status parser -/

/-- R130 (with R131, R132, R133, R140): what `TRY_PARSE` answers, by the shape of the buffer: fewer than six bytes;
a header with too few bytes after it; a whole frame, whatever its head bytes and whatever follows it. -/
def Obligations.TryParseReadsTheFrame : Prop :=
  ∀ s : State,
    (∀ buf : List Byte, buf.length < 6 → exec (.tryParse buf) s = .next (s.answered (.parsed .short))) ∧
    (∀ (h0 h1 dst src st dl : Byte) (rest : List Byte), rest.length < dl.toNat + 2 →
      exec (.tryParse (h0 :: h1 :: dst :: src :: st :: dl :: rest)) s =
        .next (s.answered (.parsed (.partialFrame
          { toAddress := dst, fromAddress := src, statusByte := st, dataLength := dl })))) ∧
    (∀ (h0 h1 dst src st dl lo hi : Byte) (data extra : List Byte), data.length = dl.toNat →
      exec (.tryParse (h0 :: h1 :: dst :: src :: st :: dl :: (data ++ lo :: hi :: extra))) s =
        .next (s.answered (.parsed (.complete
          { statusByte := st, toAddress := dst, fromAddress := src, dataLength := dl, data := data,
            returnCode := data.head? }
          (decide (checksum (dst :: src :: st :: dl :: data) 0x7E7E = hi ++ lo))))))

/-- R134: the header and the verdict of a frame never change as more bytes arrive. -/
def Obligations.TryParseIsMonotone : Prop :=
  ∀ b e : List Byte,
    (∀ (r : Response) (k : Bool), tryParse b = .complete r k → tryParse (b ++ e) = .complete r k) ∧
    (∀ h : Header, tryParse b = .partialFrame h →
      tryParse (b ++ e) = .partialFrame h ∨
      ∃ (r : Response) (k : Bool), tryParse (b ++ e) = .complete r k ∧ r.toAddress = h.toAddress ∧
        r.fromAddress = h.fromAddress ∧ r.statusByte = h.statusByte ∧ r.dataLength = h.dataLength)

/-- R135, R136, R137: `RX_DATA` appends and restarts the timer, unless six bytes with `overflow` or `invalid` are there:
then the buffer is cleared at once and an outstanding request failed, `overflow` first. No bytes, no receive event. -/
def Obligations.RxDataAppendsOrShortCircuits : Prop :=
  ∀ (bs : List Byte) (s : State),
    (bs = [] → exec (.rxData bs) s = .next (s.answered .refused)) ∧
    (bs ≠ [] → (∀ st : Byte, (s.rxBuf ++ bs)[4]? = some st → (s.rxBuf ++ bs).length < 6 ∨ st &&& 0x60 = 0x00) →
      exec (.rxData bs) s =
        .next { s.answered .ok with rxBuf := s.rxBuf ++ bs, idleArmed := true, idleCnt := 0 }) ∧
    (∀ st : Byte, bs ≠ [] → 6 ≤ (s.rxBuf ++ bs).length → (s.rxBuf ++ bs)[4]? = some st → st &&& 0x60 ≠ 0x00 →
      (s.reqState = .idle →
        exec (.rxData bs) s = .next { s.answered .ok with rxBuf := [], idleArmed := false, idleCnt := 0 }) ∧
      (s.reqState ≠ .idle →
        exec (.rxData bs) s = .next
          { (s.answered .ok).emitting
              (.resolve (if st.getLsbD 5 then .deviceOverflow else .deviceInvalidCommand) false (.status st)) with
            rxBuf := [], idleArmed := false, idleCnt := 0, reqState := .idle }))

/-- R139: `RX_FLUSH` clears the buffer and disarms the timer, and nothing else. -/
def Obligations.RxFlushClearsTheBuffer : Prop :=
  ∀ s : State, exec .rxFlush s =
    .next { s.answered .ok with rxBuf := [], idleArmed := false, idleCnt := 0 }

/-- R150: the eight flags, each its bit of the byte. -/
def Obligations.StatusDecodeReadsTheBits : Prop :=
  ∀ (b : Byte) (s : State), exec (.statusDecode b) s = .next (s.answered (.flags
    { mid := b.getLsbD 0, sync := b.getLsbD 1, busy := b.getLsbD 2, aborted := b.getLsbD 3, noRequest := b.getLsbD 4,
      overflow := b.getLsbD 5, invalid := b.getLsbD 6, valid := b.getLsbD 7 }))

/-- R152: encode and decode of the status byte are inverse, both ways. -/
def Obligations.StatusDecodeHasAnInverse : Prop :=
  (∀ b : Byte, encodeStatus (decodeStatus b) = b) ∧ ∀ f : Status, decodeStatus (encodeStatus f) = f

/-! ### Idle detector -/

/-- R160: a disarmed timer ignores the tick; an armed one counts; the tick that completes `T_IDLE` fires. `T_IDLE` is
any number from 100 to 150 (R5). -/
def Obligations.TickCountsThenFires : Prop :=
  100 ≤ Config.hw.tIdle ∧ Config.hw.tIdle ≤ 150 ∧
  ∀ s : State,
    (s.idleArmed = false → exec .tick s = .next (s.answered .ok)) ∧
    (s.idleArmed = true → s.idleCnt + 1 < Config.hw.tIdle →
      exec .tick s = .next { s.answered .ok with idleCnt := s.idleCnt + 1 }) ∧
    (s.idleArmed = true → Config.hw.tIdle ≤ s.idleCnt + 1 → exec .tick s = exec .idleFire s)

/-- R161 to R165: an idle fire disarms the timer and disposes of the buffer by what it parses as: retained while
incomplete; failed on a status byte with `overflow` or `invalid`; discarded on a bad checksum; else delivered. The
answer `OK` is the model's (log 10). -/
def Obligations.IdleFireDisposesOfTheBuffer : Prop :=
  ∀ s : State,
    (tryParse s.rxBuf = .short →
      exec .idleFire s = .next { s.answered .ok with idleArmed := false, idleCnt := 0 }) ∧
    (∀ h : Header, tryParse s.rxBuf = .partialFrame h → h.statusByte &&& 0x60 = 0x00 →
      exec .idleFire s = .next { s.answered .ok with idleArmed := false, idleCnt := 0 }) ∧
    (∀ st : Byte, (∃ h : Header, tryParse s.rxBuf = .partialFrame h ∧ h.statusByte = st) ∨
        (∃ (r : Response) (k : Bool), tryParse s.rxBuf = .complete r k ∧ r.statusByte = st) → st &&& 0x60 ≠ 0x00 →
      (s.reqState = .idle →
        exec .idleFire s = .next { s.answered .ok with rxBuf := [], idleArmed := false, idleCnt := 0 }) ∧
      (s.reqState ≠ .idle →
        exec .idleFire s = .next
          { (s.answered .ok).emitting
              (.resolve (if st.getLsbD 5 then .deviceOverflow else .deviceInvalidCommand) false (.status st)) with
            rxBuf := [], idleArmed := false, idleCnt := 0, reqState := .idle })) ∧
    (∀ r : Response, tryParse s.rxBuf = .complete r false → r.statusByte &&& 0x60 = 0x00 →
      (s.reqState = .idle →
        exec .idleFire s = .next { s.answered .ok with rxBuf := [], idleArmed := false, idleCnt := 0 }) ∧
      (s.reqState ≠ .idle →
        exec .idleFire s = .next
          { (s.answered .ok).emitting (.resolve .checksumMismatch false
              (.checksums (checksum ((s.rxBuf.drop 2).take (4 + r.dataLength.toNat)) 0x7E7E)
                (s.rxBuf.getD (7 + r.dataLength.toNat) 0x00 ++ s.rxBuf.getD (6 + r.dataLength.toNat) 0x00))) with
            rxBuf := [], idleArmed := false, idleCnt := 0, reqState := .idle })) ∧
    (∀ r : Response, tryParse s.rxBuf = .complete r true → r.statusByte &&& 0x60 = 0x00 →
      (s.reqState = .idle →
        exec .idleFire s = .next
          { (s.answered .ok).emitting (.unsolicited r) with
            rxBuf := [], idleArmed := false, idleCnt := 0, canWrite := true }) ∧
      (s.reqState ≠ .idle →
        exec .idleFire s = .next
          { (s.answered .ok).emitting
              (if r.returnCode = some 0x00 then .resolve .response true (.response r)
               else .resolve .deviceReturnCodeError false (.response r)) with
            rxBuf := [], idleArmed := false, idleCnt := 0, canWrite := true, reqState := .idle }))

/-- R168, R252: a good response with a request outstanding is delivered by the `T_IDLE`-th tick after its last bytes
and by none before, whatever part of it was in the buffer and whatever extra bytes follow it. -/
def Obligations.ResponseIsDeliveredAtTheLastTick : Prop :=
  ∀ (s : State) (bs : List Byte) (r : Response),
    bs ≠ [] → s.reqState ≠ .idle → tryParse (s.rxBuf ++ bs) = .complete r true → r.statusByte &&& 0x60 = 0x00 →
    (∀ k : Nat, k < Config.hw.tIdle → ∃ t : State, execAll (.rxData bs :: ticks k) s = some t ∧
      t.events = s.events ∧ t.reqState = s.reqState ∧ t.rxBuf = s.rxBuf ++ bs) ∧
    (∃ t : State, execAll (.rxData bs :: ticks Config.hw.tIdle) s = some t ∧
      t.events = s.events ++ [if r.returnCode = some 0x00 then .resolve .response true (.response r)
        else .resolve .deviceReturnCodeError false (.response r)] ∧
      t.toBlock = { s.toBlock with
        rxBuf := [], idleArmed := false, idleCnt := 0, canWrite := true, reqState := .idle })

/-- R169: a good response frame delivered in two parts, with any number of ticks between them, resolves the request once
and leaves the block as if it had come whole. -/
def Obligations.SplitResponseIsDeliveredOnce : Prop :=
  ∀ (s : State) (a b : List Byte) (r : Response) (k : Nat),
    s.rxBuf = [] → s.reqState ≠ .idle → a ≠ [] → b ≠ [] → (a ++ b).length = 8 + r.dataLength.toNat →
    tryParse (a ++ b) = .complete r true → r.statusByte &&& 0x60 = 0x00 →
    ∃ (t u : State) (e : Event),
      execAll (.rxData a :: ticks k ++ .rxData b :: ticks Config.hw.tIdle) s = some t ∧
      execAll (.rxData (a ++ b) :: ticks Config.hw.tIdle) s = some u ∧
      t.toBlock = u.toBlock ∧ t.events = s.events ++ [e] ∧ u.events = s.events ++ [e] ∧ e.resolves = true

/-- R170: in a state that meets the invariant the idle fire finds no status byte with `overflow` or `invalid`. -/
def Obligations.IdleFireFindsNoStatusFailure : Prop :=
  ∀ s : State, s.Inv →
    (∀ h : Header, tryParse s.rxBuf = .partialFrame h → h.statusByte &&& 0x60 = 0x00) ∧
    (∀ (r : Response) (k : Bool), tryParse s.rxBuf = .complete r k → r.statusByte &&& 0x60 = 0x00)

/-! ### Link and request control -/

/-- R180: `LINK_OPEN` opens the link, makes it writable and returns the sequencer to `START`. -/
def Obligations.LinkOpenOpensTheLink : Prop :=
  ∀ s : State, exec .linkOpen s =
    .next { s.answered .ok with isOpen := true, canWrite := true, syncState := .start }

/-- R181, R182: `LINK_CLOSE` and `LINK_ERROR` clear both link bits and the buffer, and fail an outstanding request with
their cause. -/
def Obligations.LinkCloseAndErrorFailTheRequest : Prop :=
  ∀ (s : State) (i : Instr) (c : LinkCause), (i = .linkClose ∧ c = .closed) ∨ (i = .linkError ∧ c = .error) →
    (s.reqState = .idle →
      exec i s = .next
        { s.answered .ok with isOpen := false, canWrite := false, rxBuf := [], idleArmed := false, idleCnt := 0 }) ∧
    (s.reqState ≠ .idle →
      exec i s = .next
        { (s.answered .ok).emitting (.resolve .linkError false (.cause c)) with
          isOpen := false, canWrite := false, rxBuf := [], idleArmed := false, idleCnt := 0, reqState := .idle })

/-- R183: `LINK_DRAIN` makes an open link writable and does nothing on a closed one. -/
def Obligations.LinkDrainMakesWritableWhileOpen : Prop :=
  ∀ s : State,
    (s.isOpen = true → exec .linkDrain s = .next { s.answered .ok with canWrite := true }) ∧
    (s.isOpen = false → exec .linkDrain s = .next (s.answered .ok))

/-- R184: `REQ_TIMEOUT` resolves the outstanding request, makes the link writable and clears the buffer; with none it
changes nothing. -/
def Obligations.ReqTimeoutResolvesAndFreesTheLink : Prop :=
  ∀ s : State,
    (s.reqState = .idle → exec .reqTimeout s = .next (s.answered .noRequest)) ∧
    (s.reqState ≠ .idle →
      exec .reqTimeout s = .next
        { (s.answered .done).emitting (.resolve .requestTimeout false .none) with
          reqState := .idle, canWrite := true, rxBuf := [], idleArmed := false, idleCnt := 0 })

/-- R185: `REQ_ABORT` ends the outstanding request with its reason and changes nothing else; another reason is refused
first. The reason operand is an outcome code, 6 or 8 (log 14). -/
def Obligations.ReqAbortEndsTheRequestOnly : Prop :=
  ∀ (s : State) (reason : Byte),
    (reason ≠ 6 → reason ≠ 8 → exec (.reqAbort reason) s = .next (s.answered .refused)) ∧
    (reason = 6 ∨ reason = 8 → s.reqState = .idle →
      exec (.reqAbort reason) s = .next (s.answered .noRequest)) ∧
    (reason = 6 ∨ reason = 8 → s.reqState ≠ .idle →
      exec (.reqAbort reason) s = .next
        { (s.answered .done).emitting
            (.resolve (if reason = 6 then .writeTimeout else .aborted) false .none) with reqState := .idle })

/-! ### Whole-machine rules -/

/-- R10, R11 to R19: each of the nine items is written only by the operations its row lists, and as they write it: the
buffer only appended to by `RX_DATA` or cleared, with the timer disarmed, by what R17 lists; the timer armed by `RX_DATA`
alone, and disarmed by an idle fire or a clear; the count moved by a tick, or zeroed. That the meter requests write what
`ISSUE` writes is the model's choice (log 8). -/
def Obligations.ItemsAreWrittenOnlyAsListed : Prop :=
  ∀ (i : Instr) (s t : State), exec i s = .next t →
    (t.crc ≠ s.crc → i = .reset ∨ (∃ v, i = .crcLoad v) ∨ (∃ d, i = .crcBit d) ∨ ∃ b, i = .crcByte b) ∧
    (t.syncState ≠ s.syncState → i = .reset ∨ i = .linkOpen ∨ (requestOf i).isSome) ∧
    (t.isOpen ≠ s.isOpen → i = .reset ∨ i = .linkOpen ∨ i = .linkClose ∨ i = .linkError) ∧
    (t.canWrite ≠ s.canWrite → i = .reset ∨ i = .writeStart ∨ i = .linkOpen ∨ i = .linkClose ∨ i = .linkError ∨
      i = .linkDrain ∨ i = .reqTimeout ∨
      (firesIdle i s.toBlock ∧ t.canWrite = true ∧ ∃ r, tryParse s.rxBuf = .complete r true)) ∧
    (t.reqState ≠ s.reqState → (requestOf i).isSome ∨ i = .writeStart ∨ firesIdle i s.toBlock ∨
      (∃ bs, i = .rxData bs ∧ bs ≠ [] ∧ shortCircuits (s.rxBuf ++ bs) = true) ∨ i = .linkClose ∨ i = .linkError ∨
      i = .reqTimeout ∨ i = .reqAbort 6 ∨ i = .reqAbort 8 ∨ i = .reset) ∧
    (t.txFrame ≠ s.txFrame → i = .reset ∨ (requestOf i).isSome) ∧
    (t.rxBuf ≠ s.rxBuf → (∃ bs, i = .rxData bs ∧ t.rxBuf = s.rxBuf ++ bs) ∨
      (clearsBuffer i s.toBlock ∧ t.rxBuf = [] ∧ t.idleArmed = false ∧ t.idleCnt = 0)) ∧
    (t.idleArmed ≠ s.idleArmed → (t.idleArmed = true ∧ ∃ bs, i = .rxData bs ∧ bs ≠ []) ∨
      (t.idleArmed = false ∧ (firesIdle i s.toBlock ∨ clearsBuffer i s.toBlock))) ∧
    (t.idleCnt ≠ s.idleCnt → (t.idleCnt = 0 ∧ ∃ bs, i = .rxData bs ∧ bs ≠ []) ∨
      (i = .tick ∧ s.idleArmed = true ∧ t.idleCnt = s.idleCnt + 1 ∧ t.idleCnt < Config.hw.tIdle) ∨
      (t.idleCnt = 0 ∧ (firesIdle i s.toBlock ∨ clearsBuffer i s.toBlock)))

/-- R186: the request register moves only along the rows of the table, each under the row's condition and with the event
of the row: an idle fire on a whole frame, checksum good or bad; `RX_DATA` or an idle fire on six or more bytes with
`overflow` or `invalid`; the link events; `REQ_TIMEOUT`; `REQ_ABORT`; `RESET`. Every other operation leaves the register
and emits no `TX` and no `RESOLVE`. The abort reasons as the codes 6 and 8 are log 14; that a meter request is an `ISSUE`
is log 8. -/
def Obligations.RequestStateMachine : Prop :=
  ∀ (i : Instr) (s t : State), exec i s = .next t →
    (t.reqState = s.reqState ∧ ∀ e ∈ t.events.drop s.events.length, ∃ r, e = .unsolicited r) ∨
    (t.reqState ≠ s.reqState ∧
      ((s.reqState = .idle ∧ t.reqState = .armed ∧ t.events = s.events ∧
          ∃ node port payload, requestOf i = some (node, port, payload) ∧ payload.length ≤ 255) ∨
       (s.reqState = .armed ∧ t.reqState = .sent ∧ i = .writeStart ∧ s.isOpen = true ∧ s.canWrite = true ∧
          t.events = s.events ++ [.tx s.txFrame]) ∨
       (t.reqState = .idle ∧ i = .reset ∧ t.events = s.events) ∨
       (t.reqState = .idle ∧ ∃ (o : ReqOutcome) (info : Info),
          t.events = s.events ++ [.resolve o (decide (o = .response)) info] ∧
          ((firesIdle i s.toBlock ∧ ∃ r, tryParse s.rxBuf = .complete r true ∧ r.statusByte &&& 0x60 = 0x00 ∧
              o = (if r.returnCode = some 0x00 then .response else .deviceReturnCodeError) ∧ info = .response r) ∨
           (firesIdle i s.toBlock ∧ o = .checksumMismatch ∧
              ∃ r, tryParse s.rxBuf = .complete r false ∧ r.statusByte &&& 0x60 = 0x00) ∨
           (∃ (buf : List Byte) (st : Byte),
              ((firesIdle i s.toBlock ∧ buf = s.rxBuf) ∨ ∃ bs, i = .rxData bs ∧ bs ≠ [] ∧ buf = s.rxBuf ++ bs) ∧
              6 ≤ buf.length ∧ buf[4]? = some st ∧ st &&& 0x60 ≠ 0x00 ∧
              o = (if st.getLsbD 5 then .deviceOverflow else .deviceInvalidCommand) ∧ info = .status st) ∨
           (i = .linkClose ∧ o = .linkError ∧ info = .cause .closed) ∨
           (i = .linkError ∧ o = .linkError ∧ info = .cause .error) ∨
           (i = .reqTimeout ∧ o = .requestTimeout ∧ info = .none) ∨
           (i = .reqAbort 6 ∧ o = .writeTimeout ∧ info = .none) ∨
           (i = .reqAbort 8 ∧ o = .aborted ∧ info = .none)))))

/-- R186, R216: over any run without `RESET`, each accepted request is resolved exactly once: the accepted requests are
the resolved ones and the outstanding one. -/
def Obligations.EveryAcceptedRequestResolvesOnce : Prop :=
  ∀ (is : List Instr) (s t : State), .reset ∉ is → execAll is s = some t →
    t.results.count .accepted + s.events.countP Event.resolves + s.pendingCount =
      s.results.count .accepted + t.events.countP Event.resolves + t.pendingCount

/-- R188: between two `TX` events there is a `RESOLVE` or a `RESET`: a run that emits a `TX` and ends sending another has
one of them between. Stated as: from a sent request, no run without a `RESOLVE` or a `RESET` emits a `TX`. -/
def Obligations.OneRequestInFlight : Prop :=
  ∀ (is : List Instr) (s t : State), .reset ∉ is → s.reqState = .sent → execAll is s = some t →
    t.events.countP Event.resolves = s.events.countP Event.resolves →
    t.reqState = .sent ∧ ∀ e ∈ t.events.drop s.events.length, ∃ r, e = .unsolicited r

/-- R51: these operations done twice in a row leave the block as done once, and the second emits nothing. -/
def Obligations.RepeatedOperationsAreIdempotent : Prop :=
  ∀ (v : Word16) (i : Instr),
    i ∈ ([.linkOpen, .linkClose, .linkError, .linkDrain, .rxFlush, .crcLoad v, .reset] : List Instr) →
    ∀ s t : State, exec i s = .next t →
      ∃ u : State, exec i t = .next u ∧ u.toBlock = t.toBlock ∧ u.events = t.events

/-- R22, R16: every step keeps the invariant, from every state that meets it. -/
def Obligations.StepKeepsTheInvariant : Prop :=
  ∀ s t : State, s.Inv → step s = .next t → t.Inv

/-- R22: the invariant holds after reset. -/
def Obligations.ResetMeetsTheInvariant : Prop := State.reset.Inv

/-- R16, R111, R112: in a state that meets the invariant, a transmitted frame is one the encoder built, carries one of
the three sync values, and parses as a whole frame whose checksum agrees. -/
def Obligations.TransmittedFramesAreValid : Prop :=
  ∀ (i : Instr) (s t : State) (f : List Byte), s.Inv → exec i s = .next t → t.events = s.events ++ [.tx f] →
    ∃ (node port sync : Byte) (payload : List Byte), payload.length ≤ 255 ∧ sync ∈ [(0x02 : Byte), 0x01, 0x00] ∧
      f = buildFrame node port sync payload ∧ 8 ≤ f.length ∧ f.length ≤ 263 ∧
      ∃ r : Response, tryParse f = .complete r true ∧ r.data = payload

/-- R22 (e), R187: `can_write = 1` with `is_open = 0` is reachable, and `WRITE_START` then answers `NOT_OPEN`. -/
def Obligations.WritableWhileClosedIsReachable : Prop :=
  ∃ (is : List Instr) (t u : State), execAll is State.reset = some t ∧ t.isOpen = false ∧ t.canWrite = true ∧
    t.reqState = .armed ∧ exec .writeStart t = .next u ∧ u.results = t.results ++ [.notOpen]

/-- R200: the outcome codes and which outcome is a success. -/
def Obligations.OutcomeTable : Prop :=
  [ReqOutcome.response, .deviceReturnCodeError, .checksumMismatch, .deviceOverflow, .deviceInvalidCommand,
    .requestTimeout, .writeTimeout, .linkError, .aborted].map (fun o => (outcomeCode o, outcomeSuccess o)) =
  [(0, true), (1, false), (2, false), (3, false), (4, false), (5, false), (6, false), (7, false), (8, false)]

/-! ### Hazards -/

/-- R241, R165: with the timer disarmed and a request outstanding, no time passing ends it: any number of ticks changes
nothing and `ISSUE` answers `BUSY`. -/
def Obligations.LostFrameStallsTheRequest : Prop :=
  ∀ (s : State) (n : Nat) (node port : Byte) (payload : List Byte), s.idleArmed = false → s.reqState ≠ .idle →
    ∃ t : State, execAll (ticks n) s = some t ∧ t.toBlock = s.toBlock ∧ t.events = s.events ∧
      exec (.issue node port payload) t = .next (t.answered .busy)

/-- R242: the two-byte tail of a short-circuited frame with `dataLength = 0` is retained after the fire, until
`RX_FLUSH`. -/
def Obligations.ShortCircuitLeavesTheTail : Prop :=
  ∀ (s : State) (h0 h1 dst src st c0 c1 : Byte), s.rxBuf = [] → s.reqState ≠ .idle → st &&& 0x60 ≠ 0x00 →
    ∃ t u : State,
      execAll (.rxData [h0, h1, dst, src, st, 0x00] :: .rxData [c0, c1] :: ticks Config.hw.tIdle) s = some t ∧
      t.reqState = .idle ∧ t.rxBuf = [c0, c1] ∧ t.idleArmed = false ∧ t.canWrite = s.canWrite ∧
      t.events = s.events ++
        [.resolve (if st.getLsbD 5 then .deviceOverflow else .deviceInvalidCommand) false (.status st)] ∧
      exec .rxFlush t = .next u ∧ u.rxBuf = []

/-- R255: flipping any one bit of any covered byte changes the checksum; and in a whole frame whose checksum agrees,
flipping any one bit of a covered byte other than the length byte (which R247 treats), or of a checksum byte, gives a
whole frame whose checksum does not agree. -/
def Obligations.FlippedBitIsDetected : Prop :=
  (∀ (m : List Byte) (seed : Word16) (j k : Nat), j < m.length → k < 8 →
    checksum (m.set j (m.getD j 0x00 ^^^ ((0x01 : Byte) <<< k))) seed ≠ checksum m seed) ∧
  (∀ (buf : List Byte) (r : Response), tryParse buf = .complete r true →
    ∀ i k : Nat, 2 ≤ i → i ≠ 5 → i < 8 + r.dataLength.toNat → k < 8 →
      ∃ r' : Response, tryParse (buf.set i (buf.getD i 0x00 ^^^ ((0x01 : Byte) <<< k))) = .complete r' false)

/-- R255: what the checksum does not catch: bit `k` flipped in the last data byte and in the low checksum byte, or in
the last but one data byte and in the high checksum byte. -/
def Obligations.TwoBitErrorsPassTheChecksum : Prop :=
  ∀ (buf : List Byte) (r : Response) (k : Nat), tryParse buf = .complete r true → k < 8 →
    let n := 6 + r.dataLength.toNat
    let flip : List Byte → Nat → List Byte := fun l i => l.set i (l.getD i 0x00 ^^^ ((0x01 : Byte) <<< k))
    (1 ≤ r.dataLength.toNat → ∃ r' : Response, tryParse (flip (flip buf (n - 1)) n) = .complete r' true) ∧
    (2 ≤ r.dataLength.toNat → ∃ r' : Response, tryParse (flip (flip buf (n - 2)) (n + 1)) = .complete r' true)

/-! ### Encoding -/

/-- Every well-formed instruction, at every operand its words admit, is what its own words decode to, whatever follows
them. The byte notation is log 2. That an `ISSUE` whose payload starts with a listed opcode is written, and decoded, as
that opcode's row, and so is not well-formed itself, is the model's choice (log 8); `IssueWordsRunIssue` covers it. -/
def Obligations.DecodeReadsEveryEncoding : Prop :=
  ∀ (i : Instr) (rest : List Byte), i.wellFormed = true → decode (encode i ++ rest) = .ok (i, rest)

/-- The words of an `ISSUE` run the `ISSUE` whatever its payload starts with: naming a meter request changes nothing
(R75, R76, log 8). -/
def Obligations.IssueWordsRunIssue : Prop :=
  ∀ (node port : Byte) (payload rest : List Byte), payload.length ≤ 255 →
    ∃ i : Instr,
      decode ([0x07, node, port, BitVec.ofNat 8 payload.length] ++ payload ++ rest) = .ok (i, rest) ∧
      ∀ s : State, exec i s = exec (.issue node port payload) s

/-- Words written out from the op codes of R80 in the notation of the spec's program lines (95_test_vectors.md section 8)
decode to their operations. The last is the `ISSUE FA, FF, [20 05]` of P4 step 13; that it is read as `GET_FIELD`, an
instruction with the same effect, is the model's choice (log 8). The reason byte of `REQ_ABORT` is log 14. -/
def Obligations.ProgramWordsDecode : Prop :=
  [[0x00], [0x01, 0x00, 0x00], [0x02, 0x01], [0x03, 0xFA], [0x04],
    [0x05, 0x05, 0xFA, 0xFF, 0x02, 0x01, 0x00, 0x7E, 0x7E], [0x08], [0x0A, 0x02, 0x8C, 0xCE], [0x0B], [0x0D], [0x0F],
    [0x11], [0x12], [0x13], [0x14, 0x06], [0x07, 0xFA, 0xFF, 0x00], [0x07, 0xFA, 0xFF, 0x02, 0x20, 0x05]].map
      (fun w => (decode w).toOption.map Prod.fst) =
  [some .reset, some (.crcLoad 0x0000), some (.crcBit true), some (.crcByte 0xFA), some .crcRead,
    some (.checksum [0xFA, 0xFF, 0x02, 0x01, 0x00] 0x7E7E), some .writeStart, some (.rxData [0x8C, 0xCE]),
    some .rxFlush, some .tick, some .linkOpen, some .linkError, some .linkDrain, some .reqTimeout,
    some (.reqAbort 0x06), some (.issue 0xFA 0xFF []), some (.getField 0xFA 0xFF [0x05])]
end

