-- ==== Sys2Proof/Laws/State.lean ====
section
/-! SUPPORT. The small lemmas of the state's own updates: one per field, true by rfl; the parameters' values. -/

namespace Sys2Proof

@[simp] theorem Config.hw_poly : Config.hw.poly = 0x1021 := rfl
@[simp] theorem Config.hw_seed : Config.hw.seed = 0x7E7E := rfl
@[simp] theorem Config.hw_head : Config.hw.head = 0x7E := rfl
@[simp] theorem Config.hw_hdrLen : Config.hw.hdrLen = 6 := rfl
@[simp] theorem Config.hw_crcLen : Config.hw.crcLen = 2 := rfl
@[simp] theorem Config.hw_maxPayload : Config.hw.maxPayload = 255 := rfl
@[simp] theorem Config.hw_syncStart : Config.hw.syncStart = 0x02 := rfl
@[simp] theorem Config.hw_syncA : Config.hw.syncA = 0x01 := rfl
@[simp] theorem Config.hw_syncB : Config.hw.syncB = 0x00 := rfl

/-- `T_IDLE` is at least 100 (R5). -/
theorem Config.hw_tIdle_ge : 100 ≤ Config.hw.tIdle := Nat.le_add_right _ _

/-- `T_IDLE` is at most 150 (R5). -/
theorem Config.hw_tIdle_le : Config.hw.tIdle ≤ 150 := by
  have h := Config.idleSlack.isLt
  show 100 + Config.idleSlack.val ≤ 150
  omega

namespace Machine

variable (s : State) (e : Effect) (r : Result) (ev : Event)

@[simp] theorem State.commit_toBlock : (s.commit e).toBlock = e.block := rfl
@[simp] theorem State.commit_inputs : (s.commit e).inputs = s.inputs := rfl
@[simp] theorem State.commit_results : (s.commit e).results = s.results ++ [e.result] := rfl
@[simp] theorem State.commit_events : (s.commit e).events = s.events ++ e.events := rfl

@[simp] theorem State.answered_toBlock : (s.answered r).toBlock = s.toBlock := rfl
@[simp] theorem State.answered_inputs : (s.answered r).inputs = s.inputs := rfl
@[simp] theorem State.answered_results : (s.answered r).results = s.results ++ [r] := rfl
@[simp] theorem State.answered_events : (s.answered r).events = s.events := rfl

@[simp] theorem State.emitting_toBlock : (s.emitting ev).toBlock = s.toBlock := rfl
@[simp] theorem State.emitting_inputs : (s.emitting ev).inputs = s.inputs := rfl
@[simp] theorem State.emitting_results : (s.emitting ev).results = s.results := rfl
@[simp] theorem State.emitting_events : (s.emitting ev).events = s.events ++ [ev] := rfl

@[simp] theorem Effect.answer_block (b : Block) : (Effect.answer b r).block = b := rfl
@[simp] theorem Effect.answer_result (b : Block) : (Effect.answer b r).result = r := rfl
@[simp] theorem Effect.answer_events (b : Block) : (Effect.answer b r).events = [] := rfl

variable (b : Block) (bs : List Byte)

@[simp] theorem rxClear_crc : (rxClear b).crc = b.crc := rfl
@[simp] theorem rxClear_syncState : (rxClear b).syncState = b.syncState := rfl
@[simp] theorem rxClear_isOpen : (rxClear b).isOpen = b.isOpen := rfl
@[simp] theorem rxClear_canWrite : (rxClear b).canWrite = b.canWrite := rfl
@[simp] theorem rxClear_reqState : (rxClear b).reqState = b.reqState := rfl
@[simp] theorem rxClear_txFrame : (rxClear b).txFrame = b.txFrame := rfl
@[simp] theorem rxClear_rxBuf : (rxClear b).rxBuf = [] := rfl
@[simp] theorem rxClear_idleArmed : (rxClear b).idleArmed = false := rfl
@[simp] theorem rxClear_idleCnt : (rxClear b).idleCnt = 0 := rfl

@[simp] theorem rxAppend_crc : (rxAppend b bs).crc = b.crc := rfl
@[simp] theorem rxAppend_syncState : (rxAppend b bs).syncState = b.syncState := rfl
@[simp] theorem rxAppend_isOpen : (rxAppend b bs).isOpen = b.isOpen := rfl
@[simp] theorem rxAppend_canWrite : (rxAppend b bs).canWrite = b.canWrite := rfl
@[simp] theorem rxAppend_reqState : (rxAppend b bs).reqState = b.reqState := rfl
@[simp] theorem rxAppend_txFrame : (rxAppend b bs).txFrame = b.txFrame := rfl
@[simp] theorem rxAppend_rxBuf : (rxAppend b bs).rxBuf = b.rxBuf ++ bs := rfl
@[simp] theorem rxAppend_idleArmed : (rxAppend b bs).idleArmed = true := rfl
@[simp] theorem rxAppend_idleCnt : (rxAppend b bs).idleCnt = 0 := rfl

/-- An answer alone is a commit that writes and emits nothing. -/
theorem State.commit_answer : s.commit (.answer s.toBlock r) = s.answered r := by
  simp [State.commit, State.answered]

end Machine

end Sys2Proof
end

