-- ==== Sys2Proof/Laws/Crc.lean ====
section
/-! SUPPORT. The laws of the CRC unit: sequencing, linearity, and what a leading register does. -/

namespace Sys2Proof.Machine

@[simp] theorem checksum_nil (seed : Word16) : checksum [] seed = seed := rfl
@[simp] theorem checksum_cons (b : Byte) (m : List Byte) (seed : Word16) :
    checksum (b :: m) seed = checksum m (byteStep seed b) := rfl

/-- The checksum of two sequences in a row is fed on. -/
theorem checksum_append (m n : List Byte) (seed : Word16) :
    checksum (m ++ n) seed = checksum n (checksum m seed) := by simp [checksum, List.foldl_append]

/-- Bit `i` of the register after a bit step: the bit below it or the data bit, XORed with the polynomial's bit when
bit 15 was set (R91). -/
theorem bitStep_getLsbD (acc : Word16) (d : Bool) {i : Nat} (hi : i < 16) :
    (bitStep acc d).getLsbD i =
      ((if i = 0 then d else acc.getLsbD (i - 1)) ^^ (acc.getLsbD 15 && (0x1021 : Word16).getLsbD i)) := by
  have hshift : ((acc <<< 1) ||| (if d then (0x0001 : Word16) else 0x0000)).getLsbD i =
      if i = 0 then d else acc.getLsbD (i - 1) := by
    rcases Nat.eq_zero_or_pos i with rfl | hpos
    · cases d <;> simp
    · have hne : i ≠ 0 := by omega
      cases d <;> simp [hi, hne, BitVec.getLsbD_eq_getElem (show i - 1 < 16 by omega)]
  unfold bitStep
  cases h : acc.getLsbD 15 <;> simp only [hshift, BitVec.getLsbD_xor, Config.hw_poly, if_true, if_false,
    Bool.false_eq_true, Bool.false_and, Bool.true_and, Bool.xor_false]

/-- One bit step is linear over GF(2) in the register and the data bit (R98). -/
theorem bitStep_xor (a b : Word16) (c d : Bool) :
    bitStep (a ^^^ b) (c ^^ d) = bitStep a c ^^^ bitStep b d := by
  apply BitVec.eq_of_getLsbD_eq
  intro i hi
  simp only [BitVec.getLsbD_xor, bitStep_getLsbD _ _ hi]
  by_cases h0 : i = 0 <;> simp only [h0, if_true, if_false] <;>
    generalize (0x1021 : Word16).getLsbD _ = p <;> generalize a.getLsbD 15 = x <;> generalize b.getLsbD 15 = y
  · revert c d p x y; decide
  · generalize a.getLsbD (i - 1) = u
    generalize b.getLsbD (i - 1) = v
    revert p x y u v; decide

/-- One byte step is linear (R98). -/
theorem byteStep_xor (a b : Word16) (c d : Byte) :
    byteStep (a ^^^ b) (c ^^^ d) = byteStep a c ^^^ byteStep b d := by
  simp only [byteStep, List.foldl_cons, List.foldl_nil, BitVec.getLsbD_xor, bitStep_xor]

/-- The checksum of two sequences of one length is linear (R98). -/
theorem checksum_xor : ∀ (m1 m2 : List Byte) (s1 s2 : Word16), m1.length = m2.length →
    checksum (List.zipWith (· ^^^ ·) m1 m2) (s1 ^^^ s2) = checksum m1 s1 ^^^ checksum m2 s2
  | [], [], _, _, _ => rfl
  | b :: m1, c :: m2, s1, s2, h => by
    simp only [List.zipWith_cons_cons, checksum_cons, byteStep_xor]
    exact checksum_xor m1 m2 _ _ (by simpa using h)

/-- On a register whose high byte is clear no feedback happens: the byte is shifted in (R95, R99). -/
theorem byteStep_of_low (x : Word16) (c : Byte) (h : ∀ i, 8 ≤ i → x.getLsbD i = false) :
    byteStep x c = (x <<< 8) ||| c.setWidth 16 := by
  have h8 := h 8 (by omega); have h9 := h 9 (by omega); have h10 := h 10 (by omega); have h11 := h 11 (by omega)
  have h12 := h 12 (by omega); have h13 := h 13 (by omega); have h14 := h 14 (by omega); have h15 := h 15 (by omega)
  apply BitVec.eq_of_getLsbD_eq
  intro i hi
  simp only [byteStep, List.foldl_cons, List.foldl_nil, BitVec.getLsbD_or, BitVec.getLsbD_shiftLeft,
    BitVec.getLsbD_setWidth]
  interval_cases i <;>
    simp only [bitStep_getLsbD, Nat.reduceLT, Nat.reduceSub, if_true, if_false, h8, h9, h10, h11, h12, h13, h14, h15,
      Bool.false_and, Bool.xor_false, decide_true, decide_false, Bool.not_true, Bool.not_false, Bool.true_and,
      Bool.false_or, Bool.and_false, Bool.or_false, OfNat.ofNat_ne_zero, one_ne_zero, BitVec.getLsbD_of_ge, Nat.le_refl,
      Nat.reduceLeDiff]

/-- A bit step takes no nonzero register to zero when it shifts in a zero (R255: `x^k mod P` is never 0). -/
theorem bitStep_false_eq_zero {x : Word16} (h : bitStep x false = 0x0000) : x = 0x0000 := by
  have hb (i : Nat) (hi : i < 16) := congrArg (·.getLsbD i) h
  have h15 : x.getLsbD 15 = false := by
    have := hb 0 (by omega)
    rw [bitStep_getLsbD _ _ (by omega)] at this
    simpa using this
  apply BitVec.eq_of_getLsbD_eq
  intro i hi
  rcases Nat.lt_or_ge i 15 with hlt | hge
  · have := hb (i + 1) (by omega)
    rw [bitStep_getLsbD _ _ (by omega), h15] at this
    simpa using this
  · rw [show i = 15 by omega, h15]; rfl

/-- Zero bytes fed after it never bring a nonzero register to zero (R255). -/
theorem byteStep_zero_eq_zero {x : Word16} (h : byteStep x 0x00 = 0x0000) : x = 0x0000 := by
  have hz : ∀ i, (0x00 : Byte).getLsbD i = false := fun i => BitVec.getLsbD_zero
  simp only [byteStep, List.foldl_cons, List.foldl_nil, hz] at h
  iterate 8 (replace h := bitStep_false_eq_zero h)
  exact h

end Sys2Proof.Machine
end

