-- ==== Sys2Proof/Laws/Ops.lean ====
section
/-! SUPPORT. The spec lemmas of the shared operations: reading a byte sequence, `raise`, and the memory's form. -/

namespace Sys2Proof.Machine

/-! ### Reading a byte sequence -/

/-- `MemRead` of one byte inside the sequence is `byteAt` (R41). -/
theorem memRead_one {buf : List Byte} {i : Nat} (h : i < buf.length) : memRead buf i 1 = some [byteAt buf i] := by
  simp [memRead, byteAt, Nat.succ_le_of_lt h, List.take_one, h]

/-- `MemRead` is not defined outside the sequence (R41). -/
theorem memRead_outside {buf : List Byte} {addr n : Nat} (h : buf.length < addr + n) : memRead buf addr n = none := by
  simp [memRead, Nat.not_le.mpr h]

/-- What is appended later never changes a byte already there (R42). -/
theorem byteAt_append {buf : List Byte} {i : Nat} (e : List Byte) (h : i < buf.length) :
    byteAt (buf ++ e) i = byteAt buf i := by
  simp [byteAt, List.getElem?_append_left h]

/-- A slice inside the sequence is the same however much is appended. -/
theorem slice_append {buf : List Byte} {i j : Nat} (e : List Byte) (h : j ≤ buf.length) :
    slice (buf ++ e) i j = slice buf i j := by
  unfold slice
  rcases Nat.lt_or_ge i buf.length with hi | hi
  · rw [List.drop_append_of_le_length hi.le, List.take_append_of_le_length (by simp; omega)]
  · have : j - i = 0 := by omega
    simp [this]

/-! ### raise -/

/-- With no request outstanding `raise` does nothing (R210). -/
theorem raise_idle {b : Block} (o : ReqOutcome) (info : Info) (h : b.reqState = .idle) :
    raise o info b = (b, []) := by simp [raise, h]

/-- With a request outstanding `raise` resolves it once and frees the request register (R210). -/
theorem raise_pending {b : Block} (o : ReqOutcome) (info : Info) (h : b.reqState ≠ .idle) :
    raise o info b = ({ b with reqState := .idle }, [.resolve o (outcomeSuccess o) info]) := by
  cases hr : b.reqState <;> simp_all [raise]

/-- All `raise` can do. -/
theorem raise_cases (o : ReqOutcome) (info : Info) (b : Block) :
    (b.reqState = .idle ∧ raise o info b = (b, [])) ∨
    (b.reqState ≠ .idle ∧
      raise o info b = ({ b with reqState := .idle }, [.resolve o (outcomeSuccess o) info])) := by
  by_cases h : b.reqState = .idle
  · exact .inl ⟨h, raise_idle o info h⟩
  · exact .inr ⟨h, raise_pending o info h⟩

/-- `success` is true for `Response` alone (R200). -/
theorem outcomeSuccess_eq (o : ReqOutcome) : outcomeSuccess o = decide (o = .response) := by cases o <;> rfl

@[simp] theorem raise_crc (o : ReqOutcome) (info : Info) (b : Block) : (raise o info b).1.crc = b.crc := by
  rcases raise_cases o info b with ⟨-, h⟩ | ⟨-, h⟩ <;> rw [h]
@[simp] theorem raise_syncState (o : ReqOutcome) (info : Info) (b : Block) :
    (raise o info b).1.syncState = b.syncState := by
  rcases raise_cases o info b with ⟨-, h⟩ | ⟨-, h⟩ <;> rw [h]
@[simp] theorem raise_isOpen (o : ReqOutcome) (info : Info) (b : Block) : (raise o info b).1.isOpen = b.isOpen := by
  rcases raise_cases o info b with ⟨-, h⟩ | ⟨-, h⟩ <;> rw [h]
@[simp] theorem raise_canWrite (o : ReqOutcome) (info : Info) (b : Block) :
    (raise o info b).1.canWrite = b.canWrite := by
  rcases raise_cases o info b with ⟨-, h⟩ | ⟨-, h⟩ <;> rw [h]
@[simp] theorem raise_reqState (o : ReqOutcome) (info : Info) (b : Block) : (raise o info b).1.reqState = .idle := by
  rcases raise_cases o info b with ⟨h', h⟩ | ⟨-, h⟩ <;> simp [*]
@[simp] theorem raise_txFrame (o : ReqOutcome) (info : Info) (b : Block) : (raise o info b).1.txFrame = b.txFrame := by
  rcases raise_cases o info b with ⟨-, h⟩ | ⟨-, h⟩ <;> rw [h]
@[simp] theorem raise_rxBuf (o : ReqOutcome) (info : Info) (b : Block) : (raise o info b).1.rxBuf = b.rxBuf := by
  rcases raise_cases o info b with ⟨-, h⟩ | ⟨-, h⟩ <;> rw [h]
@[simp] theorem raise_idleArmed (o : ReqOutcome) (info : Info) (b : Block) :
    (raise o info b).1.idleArmed = b.idleArmed := by
  rcases raise_cases o info b with ⟨-, h⟩ | ⟨-, h⟩ <;> rw [h]
@[simp] theorem raise_idleCnt (o : ReqOutcome) (info : Info) (b : Block) : (raise o info b).1.idleCnt = b.idleCnt := by
  rcases raise_cases o info b with ⟨-, h⟩ | ⟨-, h⟩ <;> rw [h]

/-! ### The memory's form (R16) -/

/-- The form depends on `tx_frame` alone. -/
theorem Memory.wf_congr {b c : Block} (h : b.txFrame = c.txFrame) : Memory.wf b = Memory.wf c := by
  simp [Memory.wf, h]

theorem Memory.wf_reset : Memory.wf Block.reset = true := rfl
theorem Memory.wf_rxClear {b : Block} (h : Memory.wf b = true) : Memory.wf (rxClear b) = true := h
theorem Memory.wf_rxAppend {b : Block} (bs : List Byte) (h : Memory.wf b = true) :
    Memory.wf (rxAppend b bs) = true := h
theorem Memory.wf_raise {b : Block} (o : ReqOutcome) (info : Info) (h : Memory.wf b = true) :
    Memory.wf (raise o info b).1 = true := by rw [Memory.wf_congr (raise_txFrame o info b), h]

end Sys2Proof.Machine
end

