-- ==== Sys2Proof/Laws/Decoder.lean ====
section
/-! SUPPORT. The spec lemmas of the frame decoder: what `TRY_PARSE` answers, and the status test. -/

namespace Sys2Proof.Machine

/-- All `TRY_PARSE` can answer (R130). -/
theorem tryParse_cases (buf : List Byte) :
    (buf.length < 6 ∧ tryParse buf = .short) ∨
    (6 ≤ buf.length ∧ buf.length < 8 + (byteAt buf 5).toNat ∧ tryParse buf = .partialFrame (headerOf buf)) ∨
    (8 + (byteAt buf 5).toNat ≤ buf.length ∧
      tryParse buf = .complete (responseOf buf) (computedChecksum buf == receivedChecksum buf)) := by
  by_cases h1 : buf.length < 6
  · exact .inl ⟨h1, by simp [tryParse, h1]⟩
  · by_cases h2 : buf.length < 6 + (byteAt buf 5).toNat + 2
    · exact .inr (.inl ⟨by omega, by omega, by simp [tryParse, crcOffset, h1, h2]⟩)
    · exact .inr (.inr ⟨by omega, by simp [tryParse, crcOffset, h1, h2]⟩)

theorem tryParse_short {buf : List Byte} (h : tryParse buf = .short) : buf.length < 6 := by
  rcases tryParse_cases buf with ⟨hl, -⟩ | ⟨-, -, h'⟩ | ⟨-, h'⟩
  · exact hl
  all_goals simp [h'] at h

theorem tryParse_partial {buf : List Byte} {h : Header} (hp : tryParse buf = .partialFrame h) :
    6 ≤ buf.length ∧ buf.length < 8 + (byteAt buf 5).toNat ∧ h = headerOf buf := by
  rcases tryParse_cases buf with ⟨-, h'⟩ | ⟨h1, h2, h'⟩ | ⟨-, h'⟩
  · simp [h'] at hp
  · rw [h'] at hp
    exact ⟨h1, h2, (ParseResult.partialFrame.inj hp).symm⟩
  · simp [h'] at hp

theorem tryParse_complete {buf : List Byte} {r : Response} {k : Bool} (hp : tryParse buf = .complete r k) :
    8 + (byteAt buf 5).toNat ≤ buf.length ∧ r = responseOf buf ∧
      k = (computedChecksum buf == receivedChecksum buf) := by
  rcases tryParse_cases buf with ⟨-, h'⟩ | ⟨-, -, h'⟩ | ⟨h1, h'⟩
  · simp [h'] at hp
  · simp [h'] at hp
  · rw [h'] at hp
    injection hp with h2 h3
    exact ⟨h1, h2.symm, h3.symm⟩

@[simp] theorem headerOf_statusByte (buf : List Byte) : (headerOf buf).statusByte = byteAt buf 4 := rfl
@[simp] theorem responseOf_statusByte (buf : List Byte) : (responseOf buf).statusByte = byteAt buf 4 := rfl

/-- The block's status test in the spec's words (R151). -/
theorem statusFails_iff (b : Byte) : statusFails b = true ↔ b &&& 0x60 ≠ 0x00 := by simp [statusFails]

theorem statusFails_false_iff (b : Byte) : statusFails b = false ↔ b &&& 0x60 = 0x00 := by simp [statusFails]

/-- The short-circuit's test (R136). -/
theorem shortCircuits_iff (buf : List Byte) :
    shortCircuits buf = true ↔ 6 ≤ buf.length ∧ statusFails (byteAt buf 4) = true := by
  rw [shortCircuits, Bool.and_eq_true, decide_eq_true_iff]
  rfl

/-- No short-circuit: fewer than six bytes, or neither status bit set. -/
theorem shortCircuits_false_iff (buf : List Byte) :
    shortCircuits buf = false ↔ (6 ≤ buf.length → statusFails (byteAt buf 4) = false) := by
  rw [← Bool.not_eq_true, shortCircuits_iff]
  cases statusFails (byteAt buf 4) <;> simp

/-- A byte inside the sequence, read as an option. -/
theorem getElem?_eq_byteAt {buf : List Byte} {i : Nat} (h : i < buf.length) : buf[i]? = some (byteAt buf i) := by
  simp [byteAt, h]

/-- `DEVICE_FAIL` with no request outstanding clears the buffer and emits nothing (R137). -/
theorem deviceFail_idle {b : Block} (buf : List Byte) (h : b.reqState = .idle) :
    deviceFail buf b = (rxClear b, []) := raise_idle _ _ h

/-- `DEVICE_FAIL` with a request outstanding resolves it with the status byte (R137). -/
theorem deviceFail_pending {b : Block} (buf : List Byte) (h : b.reqState ≠ .idle) :
    deviceFail buf b = ({ rxClear b with reqState := .idle },
      [.resolve (if (byteAt buf 4).getLsbD 5 then .deviceOverflow else .deviceInvalidCommand) false
        (.status (byteAt buf 4))]) := by
  have hc : (rxClear b).reqState ≠ .idle := h
  simp only [deviceFail, raise_pending _ _ hc]
  cases (byteAt buf 4).getLsbD 5 <;> rfl

/-! ### A buffer by its shape -/

variable {h0 h1 dst src st dl lo hi : Byte} {data extra : List Byte}

theorem byteAt_data_lo (h : data.length = dl.toNat) :
    byteAt (h0 :: h1 :: dst :: src :: st :: dl :: (data ++ lo :: hi :: extra)) (6 + dl.toNat) = lo := by
  have hx : (data ++ lo :: hi :: extra)[dl.toNat]? = some lo := by
    rw [List.getElem?_append_right (by omega)]
    simp [h]
  simp [byteAt, Nat.add_comm 6, hx]

theorem byteAt_data_hi (h : data.length = dl.toNat) :
    byteAt (h0 :: h1 :: dst :: src :: st :: dl :: (data ++ lo :: hi :: extra)) (6 + dl.toNat + 1) = hi := by
  have hx : (data ++ lo :: hi :: extra)[dl.toNat + 1]? = some hi := by
    rw [List.getElem?_append_right (by omega), show dl.toNat + 1 - data.length = 1 by omega]
    rfl
  simp [byteAt, Nat.add_comm 6, Nat.add_right_comm, hx]

/-- The two bytes of a received checksum joined low byte first are the word `hi lo` (R45). -/
theorem joinLoHi_eq_append (lo hi : Byte) : joinLoHi lo hi = (hi ++ lo : BitVec (8 + 8)) := by
  apply BitVec.eq_of_getLsbD_eq
  intro i hi'
  rw [BitVec.getLsbD_append]
  by_cases h : i < 8
  · simp [joinLoHi, h, hi']
  · simp [joinLoHi, h, hi', BitVec.getLsbD_of_ge lo i (by omega)]

/-- What `TRY_PARSE` answers on a whole frame, whatever its head bytes and whatever follows (R130, R140). -/
theorem tryParse_frame (h : data.length = dl.toNat) :
    tryParse (h0 :: h1 :: dst :: src :: st :: dl :: (data ++ lo :: hi :: extra)) =
      .complete
        { statusByte := st, toAddress := dst, fromAddress := src, dataLength := dl, data := data,
          returnCode := data.head? }
        (checksum (dst :: src :: st :: dl :: data) Config.hw.seed == joinLoHi lo hi) := by
  have hlen : 8 + dl.toNat ≤ (h0 :: h1 :: dst :: src :: st :: dl :: (data ++ lo :: hi :: extra)).length := by
    simp [← h]; omega
  have htake : (data ++ lo :: hi :: extra).take dl.toNat = data := by simp [← h]
  rcases tryParse_cases (h0 :: h1 :: dst :: src :: st :: dl :: (data ++ lo :: hi :: extra)) with
    ⟨hl, -⟩ | ⟨-, hl, -⟩ | ⟨-, hp⟩
  · omega
  · rw [show byteAt (h0 :: h1 :: dst :: src :: st :: dl :: (data ++ lo :: hi :: extra)) 5 = dl from rfl] at hl
    omega
  · have hc : crcOffset (h0 :: h1 :: dst :: src :: st :: dl :: (data ++ lo :: hi :: extra)) = 6 + dl.toNat := rfl
    have hd : slice (h0 :: h1 :: dst :: src :: st :: dl :: (data ++ lo :: hi :: extra)) 6 (6 + dl.toNat) = data := by
      simp [slice, htake]
    have hb : slice (h0 :: h1 :: dst :: src :: st :: dl :: (data ++ lo :: hi :: extra)) 2 (6 + dl.toNat) =
        dst :: src :: st :: dl :: data := by
      simp [slice, show 6 + dl.toNat - 2 = dl.toNat + 4 by omega, htake]
    rw [hp, computedChecksum, receivedChecksum, responseOf, hc, Config.hw_hdrLen, hd, hb, byteAt_data_lo h,
      byteAt_data_hi h]
    rfl

end Sys2Proof.Machine
end

