-- ==== Sys2Proof/Laws/Encoder.lean ====
section
/-! SUPPORT. The spec lemmas of the frame encoder: a built frame's bytes, its length, what it parses as. -/

namespace Sys2Proof.Machine

/-- A built frame, byte by byte (R60). -/
theorem buildFrame_eq (node port sync : Byte) (payload : List Byte) :
    buildFrame node port sync payload =
      0x7E :: 0x7E :: node :: port :: sync :: lengthByte payload ::
        (payload ++ [lo8 (checksum (frameBody node port sync payload) 0x7E7E),
          hi8 (checksum (frameBody node port sync payload) 0x7E7E)]) := by
  simp [buildFrame, frameBody]

/-- A built frame is `8 + n` bytes long (R111 a). -/
@[simp] theorem buildFrame_length (node port sync : Byte) (payload : List Byte) :
    (buildFrame node port sync payload).length = 8 + payload.length := by
  simp [buildFrame_eq]; omega

/-- The length byte of a payload of at most 255 bytes is its length (R62). -/
theorem lengthByte_toNat {payload : List Byte} (h : payload.length ≤ 255) :
    (lengthByte payload).toNat = payload.length := by
  simp [lengthByte]; omega

/-- Joining the two halves of a checksum gives it back (R45, R70 b). -/
theorem joinLoHi_halves (c : Word16) : joinLoHi (lo8 c) (hi8 c) = c := by
  apply BitVec.eq_of_getLsbD_eq
  intro i hi
  by_cases h : i < 8
  · simp [joinLoHi, lo8, hi8, h, hi]
  · simp [joinLoHi, lo8, hi8, h, hi, show i - 8 < 8 by omega, show 8 + (i - 8) = i by omega]

/-- Looped back, a built frame is a whole frame whose checksum agrees (R111 e). -/
theorem tryParse_buildFrame (node port sync : Byte) {payload : List Byte} (h : payload.length ≤ 255) :
    tryParse (buildFrame node port sync payload) = .complete
      { statusByte := sync, toAddress := node, fromAddress := port, dataLength := lengthByte payload, data := payload,
        returnCode := payload.head? } true := by
  rw [buildFrame_eq, tryParse_frame (lengthByte_toNat h).symm, joinLoHi_halves]
  simp [frameBody]

end Sys2Proof.Machine
end

