-- ==== Sys2Proof/Laws/Exec.lean ====
section
/-! SUPPORT. What `exec` can do, said once: it commits the effect of its instruction on the block (R10, R217). -/

namespace Sys2Proof.Machine

/-- The effect of each instruction on the block (R10). -/
def effectOf (i : Instr) (b : Block) : Effect :=
  match i with
  | .reset => .answer resetBlock .ok
  | .crcLoad v => .answer { b with crc := v } .ok
  | .crcBit d => .answer { b with crc := bitStep b.crc d } .ok
  | .crcByte c => .answer { b with crc := byteStep b.crc c } .ok
  | .crcRead => .answer b (.word b.crc)
  | .checksum bytes seed => .answer b (.word (checksum bytes seed))
  | .build node port sync payload => .answer b (buildResult node port sync payload)
  | .issue node port payload => issue node port payload b
  | .writeStart => writeStart b
  | .tryParse buffer => .answer b (.parsed (tryParse buffer))
  | .rxData bs => rxData bs b
  | .rxFlush => .answer (rxClear b) .ok
  | .statusDecode c => .answer b (.flags (decodeStatus c))
  | .tick => tick Config.hw.tIdle b
  | .idleFire => idleFireEffect b
  | .linkOpen => .answer { b with isOpen := true, canWrite := true, syncState := .start } .ok
  | .linkClose => linkDown .closed b
  | .linkError => linkDown .error b
  | .linkDrain => .answer { b with canWrite := if b.isOpen then true else b.canWrite } .ok
  | .reqTimeout => reqTimeout b
  | .reqAbort reason => reqAbort reason b
  | .getProductId node port ops => issue node port (0x00 :: ops) b
  | .getField node port ops => issue node port (0x20 :: ops) b
  | .setField node port ops => issue node port (0x21 :: ops) b
  | .machineStatus node port ops => issue node port (0x23 :: ops) b
  | .issueCommand node port ops => issue node port (0x24 :: ops) b
  | .getVersion node port ops => issue node port (0x26 :: ops) b
  | .getSecurity node port ops => issue node port (0x27 :: ops) b
  | .deliveryStatus node port ops => issue node port (0x28 :: ops) b
  | .startPauseDelivery node port ops => issue node port (0x29 :: ops) b
  | .getTransaction node port ops => issue node port (0x2A :: ops) b
  | .deleteTransaction node port ops => issue node port (0x2B :: ops) b
  | .getFieldParams node port ops => issue node port (0x7B :: ops) b
  | .setBaudRate node port ops => issue node port (0x7C :: ops) b
  | .checkLastRequest node port ops => issue node port (0x7D :: ops) b
  | .abortRequest node port ops => issue node port (0x7E :: ops) b
  | .getFieldParams2 node port ops => issue node port (0x7F :: ops) b

/-- `exec` always answers a next state: the committed effect. -/
theorem exec_eq (i : Instr) (s : State) : exec i s = .next (s.commit (effectOf i s.toBlock)) := by cases i <;> rfl

/-- What a next state of `exec` is. -/
theorem exec_next {i : Instr} {s t : State} (h : exec i s = .next t) : t = s.commit (effectOf i s.toBlock) := by
  rw [exec_eq] at h
  exact (Host.Outcome.next.inj h).symm

/-- An instruction that carries a request has the effect of its `ISSUE` (R75, R113). -/
theorem effectOf_request {i : Instr} {node port : Byte} {payload : List Byte}
    (h : requestOf i = some (node, port, payload)) (b : Block) : effectOf i b = issue node port payload b := by
  cases i <;> simp_all [requestOf, effectOf]

@[simp] theorem execAll_nil (s : State) : execAll [] s = some s := rfl

/-- A run takes one operation's effect at a time. -/
@[simp] theorem execAll_cons (i : Instr) (is : List Instr) (s : State) :
    execAll (i :: is) s = execAll is (s.commit (effectOf i s.toBlock)) := by simp [execAll, exec_eq]

/-- A run in two parts. -/
theorem execAll_append (is js : List Instr) (s : State) :
    execAll (is ++ js) s = (execAll is s).bind (execAll js) := by
  induction is generalizing s with
  | nil => rfl
  | cons i is ih => simp [ih]

/-! ### The effects with several cases, each case once -/

/-- All `ISSUE` can do (R113). -/
theorem issue_cases (node port : Byte) (payload : List Byte) (b : Block) :
    (b.reqState ≠ .idle ∧ issue node port payload b = .answer b .busy) ∨
    (b.reqState = .idle ∧ 255 < payload.length ∧ issue node port payload b = .answer b .badLength) ∨
    (b.reqState = .idle ∧ payload.length ≤ 255 ∧ issue node port payload b =
      { block := { b with
          txFrame := buildFrame node port (syncValue b.syncState) payload
          syncState := nextSync b.syncState
          reqState := .armed }
        result := .accepted
        events := [] }) := by
  unfold issue
  cases hr : b.reqState
  · by_cases hl : 255 < payload.length
    · exact .inr (.inl ⟨rfl, hl, by simp [hl]⟩)
    · exact .inr (.inr ⟨rfl, by omega, by simp [hl]⟩)
  · exact .inl ⟨by simp, rfl⟩
  · exact .inl ⟨by simp, rfl⟩

/-- All `WRITE_START` can do (R114). -/
theorem writeStart_cases (b : Block) :
    (∃ r : Result, r.refuses = true ∧ writeStart b = .answer b r) ∨
    (b.reqState = .armed ∧ b.isOpen = true ∧ b.canWrite = true ∧ writeStart b =
      { block := { b with canWrite := false, reqState := .sent }, result := .started, events := [.tx b.txFrame] }) := by
  unfold writeStart
  cases hr : b.reqState
  · exact .inl ⟨.noFrame, rfl, rfl⟩
  · cases ho : b.isOpen
    · exact .inl ⟨.notOpen, rfl, rfl⟩
    · cases hw : b.canWrite
      · exact .inl ⟨.notWritable, rfl, rfl⟩
      · exact .inr ⟨rfl, rfl, rfl, rfl⟩
  · exact .inl ⟨.noFrame, rfl, rfl⟩

/-- All `RX_DATA` can do (R135). -/
theorem rxData_cases (bs : List Byte) (b : Block) :
    (bs = [] ∧ rxData bs b = .answer b .refused) ∨
    (bs ≠ [] ∧ shortCircuits (b.rxBuf ++ bs) = false ∧ rxData bs b = .answer (rxAppend b bs) .ok) ∨
    (bs ≠ [] ∧ shortCircuits (b.rxBuf ++ bs) = true ∧ rxData bs b =
      { block := (deviceFail (b.rxBuf ++ bs) b).1, result := .ok, events := (deviceFail (b.rxBuf ++ bs) b).2 }) := by
  unfold rxData
  by_cases h : bs = []
  · exact .inl ⟨h, by simp [h]⟩
  · cases hc : shortCircuits (b.rxBuf ++ bs)
    · exact .inr (.inl ⟨h, rfl, by simp [h]⟩)
    · exact .inr (.inr ⟨h, rfl, by simp [h]⟩)

/-- R162 case 1: fewer than six bytes are retained. -/
theorem dispose_short {b : Block} (h : tryParse b.rxBuf = .short) : dispose b = (b, []) := by simp [dispose, h]

/-- R162 case 3: an incomplete frame with a clear status byte is retained. -/
theorem dispose_partial {b : Block} {h : Header} (hp : tryParse b.rxBuf = .partialFrame h)
    (hs : statusFails h.statusByte = false) : dispose b = (b, []) := by simp [dispose, hp, hs]

/-- R162 case 2: a readable status byte with `overflow` or `invalid`. -/
theorem dispose_statusFails {b : Block} (hl : 6 ≤ b.rxBuf.length) (hs : statusFails (byteAt b.rxBuf 4) = true) :
    dispose b = deviceFail b.rxBuf b := by
  rcases tryParse_cases b.rxBuf with ⟨h, -⟩ | ⟨-, -, h⟩ | ⟨-, h⟩
  · omega
  · simp [dispose, h, hs]
  · simp [dispose, h, hs]

/-- R162 case 4: a whole frame whose checksum disagrees. -/
theorem dispose_mismatch {b : Block} {r : Response} (hp : tryParse b.rxBuf = .complete r false)
    (hs : statusFails r.statusByte = false) :
    dispose b =
      raise .checksumMismatch (.checksums (computedChecksum b.rxBuf) (receivedChecksum b.rxBuf)) (rxClear b) := by
  simp [dispose, hp, hs]

/-- R162 case 5: a whole good frame. -/
theorem dispose_deliver {b : Block} {r : Response} (hp : tryParse b.rxBuf = .complete r true)
    (hs : statusFails r.statusByte = false) : dispose b = deliver r b := by simp [dispose, hp, hs]

/-- All the disposition can do (R162), with the condition of each case: retain, fail on the status byte, fail on the
checksum, deliver. -/
theorem dispose_cases (b : Block) :
    dispose b = (b, []) ∨
    (shortCircuits b.rxBuf = true ∧ dispose b = deviceFail b.rxBuf b) ∨
    (∃ r : Response, tryParse b.rxBuf = .complete r false ∧ statusFails r.statusByte = false ∧ dispose b =
      raise .checksumMismatch (.checksums (computedChecksum b.rxBuf) (receivedChecksum b.rxBuf)) (rxClear b)) ∨
    (∃ r : Response, tryParse b.rxBuf = .complete r true ∧ statusFails r.statusByte = false ∧
      dispose b = deliver r b) := by
  rcases tryParse_cases b.rxBuf with ⟨-, h⟩ | ⟨hl, -, h⟩ | ⟨hl, h⟩
  · exact .inl (dispose_short h)
  · cases hs : statusFails (byteAt b.rxBuf 4)
    · exact .inl (dispose_partial h hs)
    · exact .inr (.inl ⟨(shortCircuits_iff _).mpr ⟨hl, hs⟩, dispose_statusFails hl hs⟩)
  · cases hs : statusFails (byteAt b.rxBuf 4)
    · cases hk : (computedChecksum b.rxBuf == receivedChecksum b.rxBuf) <;> rw [hk] at h
      · exact .inr (.inr (.inl ⟨_, h, hs, dispose_mismatch h hs⟩))
      · exact .inr (.inr (.inr ⟨_, h, hs, dispose_deliver h hs⟩))
    · have h6 : 6 ≤ b.rxBuf.length := by omega
      exact .inr (.inl ⟨(shortCircuits_iff _).mpr ⟨h6, hs⟩, dispose_statusFails h6 hs⟩)

/-- All a delivery can do (R163). -/
theorem deliver_cases (r : Response) (b : Block) :
    (b.reqState = .idle ∧ deliver r b = ({ rxClear b with canWrite := true }, [.unsolicited r])) ∨
    (b.reqState ≠ .idle ∧ deliver r b =
      ({ rxClear b with canWrite := true, reqState := .idle },
        [if r.returnCode = some 0x00 then .resolve .response true (.response r)
         else .resolve .deviceReturnCodeError false (.response r)])) := by
  by_cases h : b.reqState = .idle
  · exact .inl ⟨h, by simp [deliver, h]⟩
  · refine .inr ⟨h, ?_⟩
    have hd : deliver r b = raise (if r.returnCode = some 0x00 then .response else .deviceReturnCodeError)
        (.response r) { rxClear b with canWrite := true } := by
      cases hr : b.reqState <;> simp_all [deliver]
    rw [hd, raise_pending _ _ (show ({ rxClear b with canWrite := true } : Block).reqState ≠ .idle from h)]
    split_ifs <;> rfl

/-- All `TICK` can do (R160). -/
theorem tick_cases (tIdle : Nat) (b : Block) :
    (b.idleArmed = false ∧ tick tIdle b = .answer b .ok) ∨
    (b.idleArmed = true ∧ b.idleCnt + 1 < tIdle ∧
      tick tIdle b = .answer { b with idleCnt := b.idleCnt + 1 } .ok) ∨
    (b.idleArmed = true ∧ tIdle ≤ b.idleCnt + 1 ∧ tick tIdle b = idleFireEffect b) := by
  unfold tick
  cases ha : b.idleArmed
  · exact .inl ⟨rfl, rfl⟩
  · by_cases hc : b.idleCnt + 1 < tIdle
    · exact .inr (.inl ⟨rfl, hc, by simp [hc]⟩)
    · exact .inr (.inr ⟨rfl, by omega, by simp [hc]⟩)

/-! ### The idle fire, said once -/

/-- All an idle fire can do (R161, R162), with the condition of each case. -/
theorem idleFire_cases (b : Block) :
    idleFire b = ({ b with idleArmed := false, idleCnt := 0 }, []) ∨
    (shortCircuits b.rxBuf = true ∧ idleFire b = deviceFail b.rxBuf b) ∨
    (∃ r : Response, tryParse b.rxBuf = .complete r false ∧ statusFails r.statusByte = false ∧ idleFire b =
      raise .checksumMismatch (.checksums (computedChecksum b.rxBuf) (receivedChecksum b.rxBuf)) (rxClear b)) ∨
    (∃ r : Response, tryParse b.rxBuf = .complete r true ∧ statusFails r.statusByte = false ∧
      idleFire b = deliver r b) :=
  dispose_cases { b with idleArmed := false, idleCnt := 0 }

/-- What a device failure leaves of the block, whatever the request register held (R137). -/
theorem deviceFail_block (buf : List Byte) (b : Block) :
    (deviceFail buf b).1 = { rxClear b with reqState := .idle } := by
  cases hr : b.reqState
  · rw [deviceFail_idle buf hr]
    simp [rxClear, hr]
  · rw [deviceFail_pending buf (by simp [hr])]
  · rw [deviceFail_pending buf (by simp [hr])]

/-- What `raise` leaves of the block (R210). -/
theorem raise_block (o : ReqOutcome) (info : Info) (b : Block) : (raise o info b).1 = { b with reqState := .idle } := by
  rcases raise_cases o info b with ⟨h, e⟩ | ⟨-, e⟩ <;> rw [e]
  rw [← h]

/-- What a delivery leaves of the block (R163). -/
theorem deliver_block (r : Response) (b : Block) :
    (deliver r b).1 = { rxClear b with canWrite := true, reqState := .idle } := by
  rcases deliver_cases r b with ⟨h, e⟩ | ⟨-, e⟩ <;> rw [e]
  rw [← h]
  rfl

/-- What an idle fire leaves of the block: the buffer retained with the timer disarmed, or the buffer cleared on a whole
frame or a failing status byte, the write gate opened by a good frame only (R161 to R165). -/
theorem idleFire_block (b : Block) :
    (idleFire b).1 = { b with idleArmed := false, idleCnt := 0 } ∨
    (((∃ r k, tryParse b.rxBuf = .complete r k) ∨ shortCircuits b.rxBuf = true) ∧
      ((idleFire b).1 = { rxClear b with reqState := .idle } ∨
        (∃ r, tryParse b.rxBuf = .complete r true) ∧
          (idleFire b).1 = { rxClear b with canWrite := true, reqState := .idle })) := by
  rcases idleFire_cases b with h | ⟨hs, h⟩ | ⟨r, hp, -, h⟩ | ⟨r, hp, -, h⟩ <;> rw [h]
  · exact .inl rfl
  · exact .inr ⟨.inr hs, .inl (deviceFail_block _ _)⟩
  · exact .inr ⟨.inl ⟨r, false, hp⟩, .inl (raise_block _ _ _)⟩
  · exact .inr ⟨.inl ⟨r, true, hp⟩, .inr ⟨⟨r, hp⟩, deliver_block _ _⟩⟩

@[simp] theorem idleFire_crc (b : Block) : (idleFire b).1.crc = b.crc := by
  rcases idleFire_block b with h | ⟨-, h | ⟨-, h⟩⟩ <;> rw [h] <;> rfl
@[simp] theorem idleFire_syncState (b : Block) : (idleFire b).1.syncState = b.syncState := by
  rcases idleFire_block b with h | ⟨-, h | ⟨-, h⟩⟩ <;> rw [h] <;> rfl
@[simp] theorem idleFire_isOpen (b : Block) : (idleFire b).1.isOpen = b.isOpen := by
  rcases idleFire_block b with h | ⟨-, h | ⟨-, h⟩⟩ <;> rw [h] <;> rfl
@[simp] theorem idleFire_txFrame (b : Block) : (idleFire b).1.txFrame = b.txFrame := by
  rcases idleFire_block b with h | ⟨-, h | ⟨-, h⟩⟩ <;> rw [h] <;> rfl
@[simp] theorem idleFire_idleArmed (b : Block) : (idleFire b).1.idleArmed = false := by
  rcases idleFire_block b with h | ⟨-, h | ⟨-, h⟩⟩ <;> rw [h] <;> rfl
@[simp] theorem idleFire_idleCnt (b : Block) : (idleFire b).1.idleCnt = 0 := by
  rcases idleFire_block b with h | ⟨-, h | ⟨-, h⟩⟩ <;> rw [h] <;> rfl

/-- An operation that runs an idle fire has its effect (R160, R161). -/
theorem effectOf_fires {i : Instr} {b : Block} (h : firesIdle i b) : effectOf i b = idleFireEffect b := by
  rcases h with rfl | ⟨rfl, ha, hc⟩
  · rfl
  · rcases tick_cases Config.hw.tIdle b with ⟨h', -⟩ | ⟨-, h', -⟩ | ⟨-, -, e⟩
    · rw [ha] at h'; cases h'
    · omega
    · exact e

/-- A tick that runs no idle fire is ignored or counts (R160). -/
theorem effectOf_tick_quiet {b : Block} (h : ¬ firesIdle .tick b) :
    effectOf .tick b = .answer b .ok ∨
    (b.idleArmed = true ∧ b.idleCnt + 1 < Config.hw.tIdle ∧
      effectOf .tick b = .answer { b with idleCnt := b.idleCnt + 1 } .ok) := by
  rcases tick_cases Config.hw.tIdle b with ⟨-, e⟩ | h' | ⟨h1, h2, -⟩
  · exact .inl e
  · exact .inr h'
  · exact absurd (.inr ⟨rfl, h1, h2⟩) h

/-- The five operations that always clear the buffer (R17). -/
theorem clearsBuffer_always {i : Instr} (b : Block)
    (h : i ∈ ([.reqTimeout, .linkClose, .linkError, .rxFlush, .reset] : List Instr)) : clearsBuffer i b :=
  .inr (.inr h)

/-- An instruction that carries no request is one of the twenty operations other than `ISSUE`. -/
theorem requestOf_none {i : Instr} (h : requestOf i = none) :
    i ∈ ([.reset, .crcRead, .writeStart, .rxFlush, .tick, .idleFire, .linkOpen, .linkClose, .linkError, .linkDrain,
        .reqTimeout] : List Instr) ∨
      (∃ v, i = .crcLoad v) ∨ (∃ d, i = .crcBit d) ∨ (∃ b, i = .crcByte b) ∨ (∃ m v, i = .checksum m v) ∨
      (∃ n p y m, i = .build n p y m) ∨ (∃ m, i = .tryParse m) ∨ (∃ m, i = .rxData m) ∨ (∃ b, i = .statusDecode b) ∨
      ∃ b, i = .reqAbort b := by
  cases i <;> simp_all [requestOf]

/-- The memory's form is kept by every operation (R16). -/
theorem Memory.wf_effectOf {b : Block} (i : Instr) (h : Memory.wf b = true) :
    Memory.wf (effectOf i b).block = true := by
  have same {c : Block} (hc : c.txFrame = b.txFrame) : Memory.wf c = true := (Memory.wf_congr hc).trans h
  cases hq : requestOf i with
  | some q =>
    obtain ⟨n, p, l⟩ := q
    rw [effectOf_request hq]
    rcases issue_cases n p l b with ⟨-, e⟩ | ⟨-, -, e⟩ | ⟨-, hl, e⟩ <;> rw [e]
    · exact h
    · exact h
    · have hlen : 8 + l.length ≤ 263 := by omega
      simp [Memory.wf, hlen]
  | none =>
    rcases requestOf_none hq with hm | ⟨v, rfl⟩ | ⟨d, rfl⟩ | ⟨c, rfl⟩ | ⟨m, v, rfl⟩ | ⟨n, p, y, m, rfl⟩ | ⟨m, rfl⟩ |
      ⟨m, rfl⟩ | ⟨c, rfl⟩ | ⟨c, rfl⟩
    · simp only [List.mem_cons, List.not_mem_nil, or_false] at hm
      rcases hm with rfl | rfl | rfl | rfl | rfl | rfl | rfl | rfl | rfl | rfl | rfl
      · rfl
      · exact h
      · rcases writeStart_cases b with ⟨r, -, e⟩ | ⟨-, -, -, e⟩ <;> simp only [effectOf, e] <;> exact h
      · exact h
      · rcases tick_cases Config.hw.tIdle b with ⟨-, e⟩ | ⟨-, -, e⟩ | ⟨-, -, e⟩ <;> simp only [effectOf, e]
        · exact h
        · exact h
        · exact same (idleFire_txFrame b)
      · exact same (idleFire_txFrame b)
      · exact h
      · exact same (raise_txFrame _ _ _)
      · exact same (raise_txFrame _ _ _)
      · exact h
      · simp only [effectOf, reqTimeout]
        cases b.reqState
        · exact h
        · exact same (raise_txFrame _ _ _)
        · exact same (raise_txFrame _ _ _)
    · exact h
    · exact h
    · exact h
    · exact h
    · exact h
    · exact h
    · rcases rxData_cases m b with ⟨-, e⟩ | ⟨-, -, e⟩ | ⟨-, -, e⟩ <;> simp only [effectOf, e]
      · exact h
      · exact h
      · exact same (raise_txFrame _ _ _)
    · exact h
    · simp only [effectOf, reqAbort]
      cases abortOutcome c with
      | none => exact h
      | some o => cases b.reqState
                  · exact h
                  · exact same (raise_txFrame _ _ _)
                  · exact same (raise_txFrame _ _ _)

/-! ### Runs of ticks -/

@[simp] theorem ticks_zero : ticks 0 = [] := rfl
@[simp] theorem ticks_succ (n : Nat) : ticks (n + 1) = .tick :: ticks n := rfl

/-- With the timer disarmed, ticks change nothing (R160). -/
theorem execAll_ticks_disarmed (n : Nat) {s : State} (h : s.idleArmed = false) :
    ∃ t : State, execAll (ticks n) s = some t ∧ t.toBlock = s.toBlock ∧ t.events = s.events := by
  induction n generalizing s with
  | zero => exact ⟨s, rfl, rfl, rfl⟩
  | succ n ih =>
    have he : effectOf .tick s.toBlock = .answer s.toBlock .ok := by simp [effectOf, tick, h]
    rw [ticks_succ, execAll_cons, he]
    obtain ⟨t, h1, h2, h3⟩ := ih (s := s.commit (.answer s.toBlock .ok)) h
    exact ⟨t, h1, h2, by rw [h3]; simp⟩

/-- With the timer armed, ticks below `T_IDLE` only count (R160). -/
theorem execAll_ticks_armed (n : Nat) {s : State} (h : s.idleArmed = true) (hn : s.idleCnt + n < Config.hw.tIdle) :
    ∃ t : State, execAll (ticks n) s = some t ∧ t.toBlock = { s.toBlock with idleCnt := s.idleCnt + n } ∧
      t.events = s.events := by
  induction n generalizing s with
  | zero => exact ⟨s, rfl, rfl, rfl⟩
  | succ n ih =>
    have he : effectOf .tick s.toBlock = .answer { s.toBlock with idleCnt := s.idleCnt + 1 } .ok := by
      simp [effectOf, tick, h, show s.idleCnt + 1 < Config.hw.tIdle by omega]
    rw [ticks_succ, execAll_cons, he]
    obtain ⟨t, h1, h2, h3⟩ := ih (s := s.commit (.answer { s.toBlock with idleCnt := s.idleCnt + 1 } .ok)) h
      (by show s.idleCnt + 1 + n < _; omega)
    refine ⟨t, h1, ?_, by rw [h3]; simp⟩
    rw [h2, show s.idleCnt + (n + 1) = s.idleCnt + 1 + n by omega]
    rfl

/-- From a count of zero, the `T_IDLE`-th tick fires (R160, R161). -/
theorem execAll_ticks_fire {s : State} (h : s.idleArmed = true) (h0 : s.idleCnt = 0) :
    ∃ t : State, execAll (ticks Config.hw.tIdle) s = some t ∧ t.toBlock = (idleFire s.toBlock).1 ∧
      t.events = s.events ++ (idleFire s.toBlock).2 := by
  have hge := Config.hw_tIdle_ge
  obtain ⟨t, h1, h2, h3⟩ := execAll_ticks_armed (Config.hw.tIdle - 1) h (by omega)
  have hsplit : ticks Config.hw.tIdle = ticks (Config.hw.tIdle - 1) ++ [.tick] := by
    rw [ticks, ticks, show Config.hw.tIdle = Config.hw.tIdle - 1 + 1 by omega, List.replicate_succ',
      Nat.add_sub_cancel]
  have he : effectOf .tick t.toBlock = idleFireEffect t.toBlock := by
    rcases tick_cases Config.hw.tIdle t.toBlock with ⟨ha, -⟩ | ⟨-, hc, -⟩ | ⟨-, -, e⟩
    · rw [h2] at ha; exact absurd (h.symm.trans ha) (by simp)
    · rw [h2] at hc; exact absurd (show s.idleCnt + (Config.hw.tIdle - 1) + 1 < Config.hw.tIdle from hc) (by omega)
    · exact e
  have hf : idleFire t.toBlock = idleFire s.toBlock := by rw [h2]; rfl
  refine ⟨t.commit (idleFireEffect t.toBlock), ?_, ?_, ?_⟩
  · rw [hsplit, execAll_append, h1]; simp [he]
  · rw [State.commit_toBlock, idleFireEffect, hf]
  · rw [State.commit_events, idleFireEffect, hf, h3]

end Sys2Proof.Machine
end

