-- ==== Sys2Proof/Laws/PerInstr.lean ====
section
/-! SUPPORT. One lemma per instruction: the words of a well-formed instruction decode to it, whatever follows them. -/

namespace Sys2Proof.Laws

/-- Reading back a sequence operand. -/
theorem readSeq_encodeSeq {l : List Byte} (rest : List Byte) (h : fitsLengthByte l = true) :
    readSeq (encodeSeq l ++ rest) = .ok (l, rest) := by
  have hl : l.length < 256 := by simp [fitsLengthByte] at h; omega
  simp [encodeSeq, readSeq, Nat.mod_eq_of_lt hl]

/-- The two halves of a 16-bit value, high half first, are the value. -/
theorem halves_append (v : BitVec (8 + 8)) : v.extractLsb' 8 8 ++ v.extractLsb' 0 8 = v := by
  apply BitVec.eq_of_getLsbD_eq
  intro i hi
  rw [BitVec.getLsbD_append]
  by_cases h : i < 8
  · simp [h]
  · simp [h, show i - 8 < 8 by omega, show 8 + (i - 8) = i by omega]

/-- Reading back a 16-bit operand. -/
theorem readWord16_encodeWord16 (v : Word16) (rest : List Byte) :
    readWord16 (encodeWord16 v ++ rest) = .ok (v, rest) := by
  have hv := halves_append v
  exact congrArg (fun w => Except.ok (w, rest)) hv

/-- Reading back the words of an `ISSUE`. -/
theorem decode_encodeIssue {payload : List Byte} (node port : Byte) (rest : List Byte)
    (h : fitsLengthByte payload = true) :
    decode (encodeIssue node port payload ++ rest) = .ok (requestInstr node port payload, rest) := by
  have hd : decode (encodeIssue node port payload ++ rest) = decodeIssue (node :: port :: (encodeSeq payload ++ rest)) :=
    rfl
  rw [hd]
  simp [decodeIssue, readByte, readSeq_encodeSeq rest h, bind, Except.bind]

/-- An unlisted payload byte selects no row (R76). -/
theorem meterRequest_unlisted {b : Byte} (node port : Byte) (ops : List Byte)
    (h : meterOpcodes.contains b = false) : meterRequest b node port ops = none := by
  have hb : ∀ x ∈ meterOpcodes.map BitVec.toNat, b.toNat ≠ x := by
    intro x hx he
    obtain ⟨c, hc, rfl⟩ := List.mem_map.mp hx
    rw [BitVec.eq_of_toNat_eq he] at h
    exact absurd hc (by simpa using h)
  unfold meterRequest
  split <;> first
    | rfl
    | (rename_i hx; exact absurd hx (hb _ (by decide)))

namespace RoundTrip

/-- The words of the instruction, if it has any, decode to it. -/
def Statement (i : Instr) : Prop :=
  i.wellFormed = true → ∀ rest : List Byte, decode (encode i ++ rest) = .ok (i, rest)

theorem reset : Statement .reset := fun _ _ => rfl
theorem crcLoad (v : Word16) : Statement (.crcLoad v) := fun _ rest => by
  have hd : decode (encode (.crcLoad v) ++ rest) =
      (do let (v, r) ← readWord16 (encodeWord16 v ++ rest); .ok (.crcLoad v, r)) := rfl
  simp [hd, readWord16_encodeWord16, bind, Except.bind]
theorem crcBit (d : Bool) : Statement (.crcBit d) := fun _ _ => by cases d <;> rfl
theorem crcByte (b : Byte) : Statement (.crcByte b) := fun _ _ => rfl
theorem crcRead : Statement .crcRead := fun _ _ => rfl
theorem checksum (bytes : List Byte) (seed : Word16) : Statement (.checksum bytes seed) := fun h rest => by
  have hd : decode (encode (.checksum bytes seed) ++ rest) =
      (do let (bs, r) ← readSeq (encodeSeq bytes ++ (encodeWord16 seed ++ rest))
          let (seed, r) ← readWord16 r
          .ok (.checksum bs seed, r)) := by rw [← List.append_assoc]; rfl
  simp [hd, readSeq_encodeSeq _ h, readWord16_encodeWord16, bind, Except.bind]
theorem build (node port sync : Byte) (payload : List Byte) : Statement (.build node port sync payload) :=
  fun h rest => by
    have hd : decode (encode (.build node port sync payload) ++ rest) =
        decodeBuild (node :: port :: sync :: (encodeSeq payload ++ rest)) := rfl
    simp [hd, decodeBuild, readByte, readSeq_encodeSeq _ h, bind, Except.bind]
theorem issue (node port : Byte) (payload : List Byte) : Statement (.issue node port payload) := fun h rest => by
  have h' : fitsLengthByte payload = true ∧ startsWithMeterOpcode payload = false := by
    simpa [Instr.wellFormed] using h
  have hi : requestInstr node port payload = .issue node port payload := by
    cases payload with
    | nil => rfl
    | cons b ops =>
      have hb : meterOpcodes.contains b = false := h'.2
      have hn : meterRequest b node port ops = none := meterRequest_unlisted node port ops hb
      simp [requestInstr, hn]
  show decode (encodeIssue node port payload ++ rest) = _
  rw [decode_encodeIssue node port rest h'.1, hi]
theorem writeStart : Statement .writeStart := fun _ _ => rfl
theorem tryParse (buffer : List Byte) : Statement (.tryParse buffer) := fun h rest => by
  have hd : decode (encode (.tryParse buffer) ++ rest) =
      (do let (buf, r) ← readSeq (encodeSeq buffer ++ rest); .ok (.tryParse buf, r)) := rfl
  simp [hd, readSeq_encodeSeq _ h, bind, Except.bind]
theorem rxData (bs : List Byte) : Statement (.rxData bs) := fun h rest => by
  have hd : decode (encode (.rxData bs) ++ rest) =
      (do let (bs, r) ← readSeq (encodeSeq bs ++ rest); .ok (.rxData bs, r)) := rfl
  simp [hd, readSeq_encodeSeq _ h, bind, Except.bind]
theorem rxFlush : Statement .rxFlush := fun _ _ => rfl
theorem statusDecode (b : Byte) : Statement (.statusDecode b) := fun _ _ => rfl
theorem tick : Statement .tick := fun _ _ => rfl
theorem idleFire : Statement .idleFire := fun _ _ => rfl
theorem linkOpen : Statement .linkOpen := fun _ _ => rfl
theorem linkClose : Statement .linkClose := fun _ _ => rfl
theorem linkError : Statement .linkError := fun _ _ => rfl
theorem linkDrain : Statement .linkDrain := fun _ _ => rfl
theorem reqTimeout : Statement .reqTimeout := fun _ _ => rfl
theorem reqAbort (reason : Byte) : Statement (.reqAbort reason) := fun _ _ => rfl
theorem getProductId (node port : Byte) (ops : List Byte) : Statement (.getProductId node port ops) :=
  fun h rest => decode_encodeIssue node port rest h
theorem getField (node port : Byte) (ops : List Byte) : Statement (.getField node port ops) :=
  fun h rest => decode_encodeIssue node port rest h
theorem setField (node port : Byte) (ops : List Byte) : Statement (.setField node port ops) :=
  fun h rest => decode_encodeIssue node port rest h
theorem machineStatus (node port : Byte) (ops : List Byte) : Statement (.machineStatus node port ops) :=
  fun h rest => decode_encodeIssue node port rest h
theorem issueCommand (node port : Byte) (ops : List Byte) : Statement (.issueCommand node port ops) :=
  fun h rest => decode_encodeIssue node port rest h
theorem getVersion (node port : Byte) (ops : List Byte) : Statement (.getVersion node port ops) :=
  fun h rest => decode_encodeIssue node port rest h
theorem getSecurity (node port : Byte) (ops : List Byte) : Statement (.getSecurity node port ops) :=
  fun h rest => decode_encodeIssue node port rest h
theorem deliveryStatus (node port : Byte) (ops : List Byte) : Statement (.deliveryStatus node port ops) :=
  fun h rest => decode_encodeIssue node port rest h
theorem startPauseDelivery (node port : Byte) (ops : List Byte) : Statement (.startPauseDelivery node port ops) :=
  fun h rest => decode_encodeIssue node port rest h
theorem getTransaction (node port : Byte) (ops : List Byte) : Statement (.getTransaction node port ops) :=
  fun h rest => decode_encodeIssue node port rest h
theorem deleteTransaction (node port : Byte) (ops : List Byte) : Statement (.deleteTransaction node port ops) :=
  fun h rest => decode_encodeIssue node port rest h
theorem getFieldParams (node port : Byte) (ops : List Byte) : Statement (.getFieldParams node port ops) :=
  fun h rest => decode_encodeIssue node port rest h
theorem setBaudRate (node port : Byte) (ops : List Byte) : Statement (.setBaudRate node port ops) :=
  fun h rest => decode_encodeIssue node port rest h
theorem checkLastRequest (node port : Byte) (ops : List Byte) : Statement (.checkLastRequest node port ops) :=
  fun h rest => decode_encodeIssue node port rest h
theorem abortRequest (node port : Byte) (ops : List Byte) : Statement (.abortRequest node port ops) :=
  fun h rest => decode_encodeIssue node port rest h
theorem getFieldParams2 (node port : Byte) (ops : List Byte) : Statement (.getFieldParams2 node port ops) :=
  fun h rest => decode_encodeIssue node port rest h

end RoundTrip

end Sys2Proof.Laws
end

