-- ==== Sys2Proof/Tests/Slice0.lean ====
section
/-! SUPPORT. The model's own tests. Expected values come from spec/95_test_vectors.md (V…, P…) and the examples of the
rules; the words from the opcode tables (R80, R75) in the notation of 95_test_vectors.md section 8. Last, a witness for
the hypotheses of every statement. -/

namespace Sys2Proof.Tests

open Sys2Proof Sys2Proof.Machine

set_option Elab.async false

/-! ### Helpers -/

/-- The state after one instruction. -/
def after (i : Instr) (s : State) : State :=
  match exec i s with
  | .next t => t
  | .fault _ => s
  | .refused _ => s

/-- The state after one step. -/
def stepped (s : State) : State :=
  match step s with
  | .next t => t
  | .fault _ => s
  | .refused _ => s

/-- What one instruction answers. -/
def answerOf (i : Instr) (s : State) : Option Result := (after i s).results.getLast?

/-- What one instruction emits. -/
def eventsOf (i : Instr) (s : State) : List Event := (after i s).events.drop s.events.length

/-- The instruction the decoder reads. -/
def decoded (bytes : List Byte) : Option Instr := (decode bytes).toOption.map Prod.fst

/-- V3.1, the known vector's frame. -/
def frame1 : List Byte := [0x7E, 0x7E, 0xFA, 0xFF, 0x02, 0x01, 0x00, 0x2F, 0x34]

/-- V4.17, the response frame used throughout. -/
def good : List Byte := [0x7E, 0x7E, 0xFF, 0xFA, 0x80, 0x01, 0x00, 0xE0, 0x91]

/-- The Response of V4.17 (V4.8). -/
def goodResponse : Response where
  statusByte := 0x80
  toAddress := 0xFF
  fromAddress := 0xFA
  dataLength := 0x01
  data := [0x00]
  returnCode := some 0x00

/-- An open, writable link, nothing outstanding. -/
def opened : State := { State.reset with isOpen := true, canWrite := true }

/-- The state of V3.18: the known vector armed. -/
def armed : State := { opened with txFrame := frame1, syncState := .a, reqState := .armed }

/-- The state of V3.25: the known vector sent. -/
def sent : State := { armed with canWrite := false, reqState := .sent }

/-- A sent request with a buffer and a running timer. -/
def receiving (buf : List Byte) : State := { sent with rxBuf := buf, idleArmed := true }

/-- 256 bytes, one more than a length byte holds. -/
def long : List Byte := List.replicate 256 0x00

/-! ### Well-formedness: each check refuses an ill-formed term -/

theorem test_wf_refuses_long_sequences :
    [Instr.checksum long 0x7E7E, .build 0x00 0x00 0x00 long, .issue 0x00 0x00 (0x01 :: long), .tryParse long,
      .rxData long].map Instr.wellFormed = [false, false, false, false, false] := by decide +kernel

theorem test_wf_refuses_issue_of_a_listed_opcode :
    meterOpcodes.map (fun b => (Instr.issue 0xFA 0xFF [b]).wellFormed) = List.replicate 16 false := by decide +kernel

theorem test_wf_refuses_long_requests :
    let ops : List Byte := List.replicate 255 0x00
    [Instr.getProductId 0 0 ops, .getField 0 0 ops, .setField 0 0 ops, .machineStatus 0 0 ops, .issueCommand 0 0 ops,
      .getVersion 0 0 ops, .getSecurity 0 0 ops, .deliveryStatus 0 0 ops, .startPauseDelivery 0 0 ops,
      .getTransaction 0 0 ops, .deleteTransaction 0 0 ops, .getFieldParams 0 0 ops, .setBaudRate 0 0 ops,
      .checkLastRequest 0 0 ops, .abortRequest 0 0 ops, .getFieldParams2 0 0 ops].map Instr.wellFormed =
      List.replicate 16 false := by decide +kernel

theorem test_wf_accepts_at_the_bound :
    [Instr.checksum (List.replicate 255 0x00) 0x7E7E, .issue 0xFA 0xFF (0x01 :: List.replicate 254 0x00),
      .getField 0xFA 0xFF (List.replicate 254 0x00)].map Instr.wellFormed = [true, true, true] := by decide +kernel

/-! ### Decoding: words written out from the tables -/

/-- R80, the CRC unit and reset. -/
theorem test_decode_crc_unit :
    [[0x00], [0x01, 0x12, 0x34], [0x02, 0x00], [0x02, 0x01], [0x03, 0xFA], [0x04],
      [0x05, 0x02, 0x7E, 0x7E, 0x00, 0x01]].map decoded =
    [some .reset, some (.crcLoad 0x1234), some (.crcBit false), some (.crcBit true), some (.crcByte 0xFA),
      some .crcRead, some (.checksum [0x7E, 0x7E] 0x0001)] := by decide +kernel

/-- R80, encoder and decoder operations. -/
theorem test_decode_frames :
    [[0x06, 0xFA, 0xFF, 0x02, 0x01, 0x00], [0x07, 0xFA, 0xFF, 0x01, 0x22], [0x08], [0x09, 0x02, 0x7E, 0x7F],
      [0x0A, 0x02, 0x8C, 0xCE], [0x0B], [0x0C, 0xA0]].map decoded =
    [some (.build 0xFA 0xFF 0x02 [0x00]), some (.issue 0xFA 0xFF [0x22]), some .writeStart,
      some (.tryParse [0x7E, 0x7F]), some (.rxData [0x8C, 0xCE]), some .rxFlush, some (.statusDecode 0xA0)] := by
  decide +kernel

/-- R80, timer, link and request control. -/
theorem test_decode_control :
    [[0x0D], [0x0E], [0x0F], [0x10], [0x11], [0x12], [0x13], [0x14, 0x08]].map decoded =
    [some .tick, some .idleFire, some .linkOpen, some .linkClose, some .linkError, some .linkDrain, some .reqTimeout,
      some (.reqAbort 0x08)] := by decide +kernel

/-- R75: the sixteen opcodes as payload byte 0 of an `ISSUE` to node FA, port FF. -/
theorem test_decode_meter_requests :
    [[0x07, 0xFA, 0xFF, 0x01, 0x00], [0x07, 0xFA, 0xFF, 0x02, 0x20, 0x05], [0x07, 0xFA, 0xFF, 0x01, 0x21],
      [0x07, 0xFA, 0xFF, 0x01, 0x23], [0x07, 0xFA, 0xFF, 0x02, 0x24, 0x01], [0x07, 0xFA, 0xFF, 0x01, 0x26],
      [0x07, 0xFA, 0xFF, 0x01, 0x27], [0x07, 0xFA, 0xFF, 0x01, 0x28], [0x07, 0xFA, 0xFF, 0x01, 0x29],
      [0x07, 0xFA, 0xFF, 0x01, 0x2A], [0x07, 0xFA, 0xFF, 0x01, 0x2B], [0x07, 0xFA, 0xFF, 0x01, 0x7B],
      [0x07, 0xFA, 0xFF, 0x01, 0x7C], [0x07, 0xFA, 0xFF, 0x01, 0x7D], [0x07, 0xFA, 0xFF, 0x01, 0x7E],
      [0x07, 0xFA, 0xFF, 0x01, 0x7F]].map decoded =
    [some (.getProductId 0xFA 0xFF []), some (.getField 0xFA 0xFF [0x05]), some (.setField 0xFA 0xFF []),
      some (.machineStatus 0xFA 0xFF []), some (.issueCommand 0xFA 0xFF [0x01]), some (.getVersion 0xFA 0xFF []),
      some (.getSecurity 0xFA 0xFF []), some (.deliveryStatus 0xFA 0xFF []), some (.startPauseDelivery 0xFA 0xFF []),
      some (.getTransaction 0xFA 0xFF []), some (.deleteTransaction 0xFA 0xFF []), some (.getFieldParams 0xFA 0xFF []),
      some (.setBaudRate 0xFA 0xFF []), some (.checkLastRequest 0xFA 0xFF []), some (.abortRequest 0xFA 0xFF []),
      some (.getFieldParams2 0xFA 0xFF [])] := by decide +kernel

/-- What is no operation is rejected by name. -/
theorem test_decode_rejects :
    [[], [0x15], [0x1F], [0x20], [0xFF], [0x03], [0x01, 0x12], [0x0A, 0x02, 0x8C], [0x02, 0x02]].map
      (fun w => match decode w with | .ok _ => none | .error e => some e) =
    [some DecodeError.empty, some (.reservedOp 0x15), some (.reservedOp 0x1F), some (.notAnOpcode 0x20),
      some (.notAnOpcode 0xFF), some .truncated, some .truncated, some .truncated, some (.notABit 0x02)] := by
  decide +kernel

/-- The words of spec/opcode_table.json: an OP row, a PAYLOAD0 row, and the word 00 the two formats share (log 9). -/
theorem test_decode_table_words :
    [decodeTableWord 8 0x08, decodeTableWord 8 0x14, decodeTableWord 8 0x20, decodeTableWord 8 0x7F,
      decodeTableWord 8 0x00] =
    [some .writeStart, some (.reqAbort 0x00), some (.getField 0x00 0x00 []), some (.getFieldParams2 0x00 0x00 []),
      some .reset] := by decide +kernel

/-! ### The step -/

/-- A table word is fetched and run first. -/
theorem test_step_runs_the_fetch_word :
    (stepped (State.reset.withFetchWord 8 0x0F)).isOpen = true ∧ (stepped (State.reset.withFetchWord 8 0x0F)).inputs = [] := by
  decide +kernel

/-- P2 step 4: the words of an `ISSUE`, with the rest of the program left queued. -/
theorem test_step_runs_program_words :
    let t := stepped { opened with inputs := [.code [0x07, 0xFA, 0xFF, 0x01, 0x00, 0x08]] }
    t.txFrame = frame1 ∧ t.reqState = .armed ∧ t.inputs = [.code [0x08]] := by decide +kernel

/-- R83: a reserved op code and the internal operation answer `REFUSED` and change nothing. -/
theorem test_step_refuses_reserved_and_internal :
    [stepped { sent with inputs := [.code [0x15]] }, stepped { sent with inputs := [.code [0x0E]] },
      stepped { sent with inputs := [.call .idleFire] }] = List.replicate 3 (sent.answered .refused) := by
  decide +kernel

/-- Bytes that are no operation are refused by name (log 3). -/
theorem test_step_refuses_malformed :
    step { State.reset with inputs := [.code [0x03]] } = .refused (.malformedCode .truncated) := by rfl

/-! ### Reset and the CRC unit -/

/-- V7.15. -/
theorem test_reset_drops_everything : (after .reset (receiving [0x7E, 0x7E, 0xFF, 0xFA])).toBlock = Block.reset ∧
    eventsOf .reset (receiving [0x7E, 0x7E, 0xFF, 0xFA]) = [] := by decide +kernel

/-- P1 step 8. -/
theorem test_crcLoad : (after (.crcLoad 0xFFFF) sent).crc = 0xFFFF := by decide +kernel

/-- V2.1 to V2.6. -/
theorem test_crcBit_small :
    [(0x0000, false), (0x0000, true), (0x8000, false), (0x8000, true), (0xFFFF, false), (0xFFFF, true)].map
      (fun p : Word16 × Bool => (after (.crcBit p.2) { State.reset with crc := p.1 }).crc) =
    [0x0000, 0x0001, 0x1021, 0x1020, 0xEFDF, 0xEFDE] := by decide +kernel

/-- V2.7 to V2.11. -/
theorem test_crcBit_large :
    [(0x7FFF, true), (0x4000, false), (0x8810, true), (0x7E7E, true), (0x1021, false)].map
      (fun p : Word16 × Bool => (after (.crcBit p.2) { State.reset with crc := p.1 }).crc) =
    [0xFFFF, 0x8000, 0x0000, 0xFCFD, 0x2042] := by decide +kernel

/-- V2.12 to V2.19. -/
theorem test_crcByte :
    [(0x0000, 0x00), (0x0000, 0xFF), (0xFFFF, 0xFF), (0xFFFF, 0x00), (0x0001, 0x00), (0x0100, 0x00), (0x1234, 0x56),
      (0x7E7E, 0xFA)].map (fun p : Word16 × Byte => (after (.crcByte p.2) { State.reset with crc := p.1 }).crc) =
    [0x0000, 0x00FF, 0xE10F, 0xE1F0, 0x0100, 0x1021, 0x0625, 0xE1A3] := by decide +kernel

/-- P1 step 7. -/
theorem test_crcRead : answerOf .crcRead { State.reset with crc := 0x342F } = some (.word 0x342F) := by decide +kernel

/-- V2.20 to V2.24, V2.30. -/
theorem test_checksum :
    [([0xFA, 0xFF, 0x02, 0x01, 0x00], 0x7E7E), ([], 0x7E7E), ([0x7E, 0x7E], 0x0000),
      ([0xFA, 0xFF, 0x02, 0x01, 0x00], 0x0000), ([0x00, 0x00, 0x00, 0x00], 0x7E7E)].map
      (fun p : List Byte × Word16 => answerOf (.checksum p.1 p.2) sent) =
    [some (.word 0x342F), some (.word 0x7E7E), some (.word 0x7E7E), some (.word 0x062E), some (.word 0x2326)] := by
  decide +kernel

/-- V2.35, V2.36. -/
theorem test_checksum_digits :
    [0x7E7E, 0x0000].map (fun seed : Word16 =>
      answerOf (.checksum [0x31, 0x32, 0x33, 0x34, 0x35, 0x36, 0x37, 0x38, 0x39] seed) State.reset) =
    [some (.word 0x485E), some (.word 0xBEEF)] := by decide +kernel

/-! ### Encoder -/

/-- V3.1, V3.3, V3.5, V3.15, V3.17. -/
theorem test_build :
    [answerOf (.build 0xFA 0xFF 0x02 [0x00]) sent, answerOf (.build 0xFA 0xFF 0x00 [0x20, 0x05]) sent,
      answerOf (.build 0xFA 0xFF 0x02 []) sent, answerOf (.build 0xFA 0xFF 0x55 [0x28]) sent,
      answerOf (.build 0xFA 0xFF 0x01 long) sent] =
    [some (.frame frame1), some (.frame [0x7E, 0x7E, 0xFA, 0xFF, 0x00, 0x02, 0x20, 0x05, 0xD3, 0x2F]),
      some (.frame [0x7E, 0x7E, 0xFA, 0xFF, 0x02, 0x00, 0xDC, 0xC3]),
      some (.frame [0x7E, 0x7E, 0xFA, 0xFF, 0x55, 0x01, 0x28, 0x15, 0x1E]), some .refused] := by decide +kernel

/-- P4 step 23: an empty payload, the third sync value. -/
theorem test_issue_empty :
    let t := after (.issue 0xFA 0xFF []) { opened with syncState := .b }
    t.txFrame = [0x7E, 0x7E, 0xFA, 0xFF, 0x00, 0x00, 0xDC, 0xC1] ∧ t.syncState = .a ∧ t.reqState = .armed := by
  decide +kernel

/-- V3.20, V3.21: the busy test is first. -/
theorem test_issue_refusals :
    after (.issue 0xFA 0xFF long) armed = armed.answered .busy ∧
    after (.issue 0xFA 0xFF long) State.reset = State.reset.answered .badLength := by decide +kernel

/-- V3.25. -/
theorem test_writeStart : after .writeStart armed = { (sent.answered .started) with events := [.tx frame1] } := by
  decide +kernel

/-- V3.23, V3.24, V3.26, V3.27. -/
theorem test_writeStart_refusals :
    [answerOf .writeStart { armed with isOpen := false }, answerOf .writeStart State.reset,
      answerOf .writeStart sent, answerOf .writeStart { armed with canWrite := false }] =
    [some .notOpen, some .noFrame, some .noFrame, some .notWritable] := by decide +kernel

/-! ### The meter requests -/

/-- V3.18, V3.3, V3.2, V3.12, V3.14, V3.13: the frames of requests the vectors give. -/
theorem test_meter_request_frames :
    [(after (.getProductId 0xFA 0xFF []) opened).txFrame,
      (after (.getField 0xFA 0xFF [0x05]) { opened with syncState := .b }).txFrame,
      (after (.machineStatus 0xFA 0xFF []) { opened with syncState := .a }).txFrame,
      (after (.issueCommand 0xFA 0xFF [0x01]) opened).txFrame,
      (after (.getVersion 0xFA 0xFF []) { opened with syncState := .b }).txFrame,
      (after (.checkLastRequest 0xFA 0xFF []) { opened with syncState := .a }).txFrame] =
    [frame1, [0x7E, 0x7E, 0xFA, 0xFF, 0x00, 0x02, 0x20, 0x05, 0xD3, 0x2F],
      [0x7E, 0x7E, 0xFA, 0xFF, 0x01, 0x01, 0x23, 0x6F, 0x04],
      [0x7E, 0x7E, 0xFA, 0xFF, 0x02, 0x02, 0x24, 0x01, 0xB5, 0x4D],
      [0x7E, 0x7E, 0xFA, 0xFF, 0x00, 0x01, 0x26, 0x4B, 0x14],
      [0x7E, 0x7E, 0xFA, 0xFF, 0x01, 0x01, 0x7D, 0x31, 0x04]] := by decide +kernel

/-- The opcode of R75 stands at offset 6 of the other requests' frames, the operand after it. -/
theorem test_meter_request_opcodes :
    [Instr.setField 1 2 [0x55], .getSecurity 1 2 [0x55], .deliveryStatus 1 2 [0x55], .startPauseDelivery 1 2 [0x55],
      .getTransaction 1 2 [0x55], .deleteTransaction 1 2 [0x55], .getFieldParams 1 2 [0x55], .setBaudRate 1 2 [0x55],
      .abortRequest 1 2 [0x55], .getFieldParams2 1 2 [0x55]].map (fun i => ((after i opened).txFrame.drop 2).take 6) =
    [0x21, 0x27, 0x28, 0x29, 0x2A, 0x2B, 0x7B, 0x7C, 0x7E, 0x7F].map
      (fun op : Byte => [0x01, 0x02, 0x02, 0x02, op, 0x55]) := by decide +kernel

/-! ### Decoder and status parser -/

/-- V4.2, V4.4, V4.7, V4.15. -/
theorem test_tryParse_incomplete :
    [answerOf (.tryParse [0x7E, 0x7E, 0xFF, 0xFA, 0x80]) sent, answerOf (.tryParse [0x7E, 0x7E, 0xFF, 0xFA, 0x80, 0x00]) sent,
      answerOf (.tryParse [0x7E, 0x7E, 0xFF, 0xFA, 0x80, 0x01, 0x00, 0xE0]) sent,
      answerOf (.tryParse [0x7E, 0x7E, 0xFF, 0xFA, 0x80, 0xFF, 0x00]) sent] =
    [some (.parsed .short), some (.parsed (.partialFrame ⟨0xFF, 0xFA, 0x80, 0x00⟩)),
      some (.parsed (.partialFrame ⟨0xFF, 0xFA, 0x80, 0x01⟩)), some (.parsed (.partialFrame ⟨0xFF, 0xFA, 0x80, 0xFF⟩))] := by
  decide +kernel

/-- V4.6, V4.8, V4.9, V4.11, and V4.10 with its checksum bytes swapped. -/
theorem test_tryParse_complete :
    [tryParse [0x7E, 0x7E, 0xFF, 0xFA, 0x80, 0x00, 0x8C, 0xEE], tryParse good, tryParse (good ++ [0x12, 0x34]),
      tryParse ([0x00, 0x00] ++ good.drop 2), tryParse [0x7E, 0x7E, 0xFF, 0xFA, 0x80, 0x01, 0x00, 0x91, 0xE0]] =
    [.complete { goodResponse with dataLength := 0x00, data := [], returnCode := none } true, .complete goodResponse true,
      .complete goodResponse true, .complete goodResponse true, .complete goodResponse false] := by decide +kernel

/-- V4.30, V4.31: five bytes are kept, the sixth fails the request. -/
theorem test_rxData_short_circuit :
    let s := after (.rxData [0x7E, 0x7E, 0xFF, 0xFA, 0xA0]) { sent with canWrite := true }
    s.rxBuf.length = 5 ∧ s.idleArmed = true ∧ s.events = [] ∧
    eventsOf (.rxData [0x00]) s = [.resolve .deviceOverflow false (.status 0xA0)] ∧
    (after (.rxData [0x00]) s).toBlock = { sent.toBlock with canWrite := true, reqState := .idle } := by decide +kernel

/-- V4.32, V4.33, V4.34, V4.35. -/
theorem test_rxData_outcomes :
    [eventsOf (.rxData [0x7E, 0x7E, 0xFF, 0xFA, 0xC0, 0x00, 0x8C, 0xAE]) sent,
      eventsOf (.rxData [0x7E, 0x7E, 0xFF, 0xFA, 0xE0, 0x01, 0x05, 0x43, 0xFD]) sent,
      eventsOf (.rxData [0x7E, 0x7E, 0xFF, 0xFA, 0xC0, 0x00, 0x8C, 0xAE]) opened] =
    [[.resolve .deviceInvalidCommand false (.status 0xC0)], [.resolve .deviceOverflow false (.status 0xE0)], []] ∧
    after (.rxData []) (receiving [0x7E]) = (receiving [0x7E]).answered .refused := by decide +kernel

/-- V4.37. -/
theorem test_rxFlush : (after .rxFlush (receiving [0x8C, 0xCE])).toBlock = sent.toBlock := by decide +kernel

/-- V5.4, V5.8, V5.9, V5.12, V5.13. -/
theorem test_statusDecode :
    [0x01, 0x10, 0x20, 0xA0, 0x9F].map (fun b : Byte => answerOf (.statusDecode b) State.reset) =
    [some (.flags ⟨true, false, false, false, false, false, false, false⟩),
      some (.flags ⟨false, false, false, false, true, false, false, false⟩),
      some (.flags ⟨false, false, false, false, false, true, false, false⟩),
      some (.flags ⟨false, false, false, false, false, true, false, true⟩),
      some (.flags ⟨true, true, true, true, true, false, false, true⟩)] := by decide +kernel

/-! ### Idle detector -/

/-- V6.1, V6.2: a disarmed timer ignores the tick, an armed one counts. -/
theorem test_tick_counts : (tick 100 sent.toBlock).block = sent.toBlock ∧
    (tick 100 { (receiving [0x7E]).toBlock with idleCnt := 98 }).block.idleCnt = 99 := by decide +kernel

/-- V6.3, V5.1: the hundredth tick fires. -/
theorem test_tick_fires :
    (tick 100 { (receiving [0x7E]).toBlock with idleCnt := 99 }).block = { sent.toBlock with rxBuf := [0x7E] } ∧
    (tick 100 { (receiving good).toBlock with idleCnt := 99 }).events =
      [.resolve .response true (.response goodResponse)] := by decide +kernel

/-- V5.2, V5.15, V5.18, V5.19: what a fire delivers. -/
theorem test_idleFire_delivers :
    [eventsOf .idleFire (receiving [0x7E, 0x7E, 0xFF, 0xFA, 0x80, 0x01, 0x21, 0xC1, 0x91]),
      eventsOf .idleFire (receiving [0x7E, 0x7E, 0xFF, 0xFA, 0x80, 0x00, 0x8C, 0xEE]),
      eventsOf .idleFire (receiving [0x7E, 0x7E, 0xFF, 0xFA, 0x80, 0x01, 0x20, 0xC1, 0x91]),
      eventsOf .idleFire { receiving good with reqState := .idle }] =
    [[.resolve .deviceReturnCodeError false (.response { goodResponse with data := [0x21], returnCode := some 33 })],
      [.resolve .deviceReturnCodeError false
        (.response { goodResponse with dataLength := 0x00, data := [], returnCode := none })],
      [.resolve .checksumMismatch false (.checksums 0x91C0 0x91C1)], [.unsolicited goodResponse]] := by decide +kernel

/-- V6.6 (retained), P4 step 17 (`can_write` left), P5 step 9 (excess discarded). -/
theorem test_idleFire_buffer :
    (after .idleFire (receiving (good.take 7))).toBlock = { sent.toBlock with rxBuf := good.take 7 } ∧
    (after .idleFire (receiving [0x7E, 0x7E, 0xFF, 0xFA, 0x80, 0x01, 0x20, 0xC1, 0x91])).toBlock =
      { sent.toBlock with reqState := .idle } ∧
    (after .idleFire (receiving (good ++ [0x55, 0x66]))).toBlock =
      { sent.toBlock with reqState := .idle, canWrite := true } := by decide +kernel

/-! ### Link and request control -/

/-- V7.1, V7.2. -/
theorem test_linkOpen : (after .linkOpen { State.reset with syncState := .b }).toBlock = opened.toBlock := by
  decide +kernel

/-- V7.3, V7.4. -/
theorem test_linkClose :
    let t := after .linkClose (receiving [0x7E])
    t.events = [.resolve .linkError false (.cause .closed)] ∧ t.toBlock = { sent.toBlock with isOpen := false, reqState := .idle } ∧
    eventsOf .linkClose opened = [] := by decide +kernel

/-- V7.5. -/
theorem test_linkError : eventsOf .linkError armed = [.resolve .linkError false (.cause .error)] ∧
    (after .linkError armed).toBlock =
      { armed.toBlock with isOpen := false, canWrite := false, reqState := .idle } := by decide +kernel

/-- V7.6, V7.7. -/
theorem test_linkDrain : (after .linkDrain State.reset).canWrite = false ∧
    (after .linkDrain sent).toBlock = { sent.toBlock with canWrite := true } := by decide +kernel

/-- V7.8, V7.9. -/
theorem test_reqTimeout :
    let t := after .reqTimeout (receiving (good.take 7))
    t.results = [.done] ∧ t.events = [.resolve .requestTimeout false .none] ∧
    t.toBlock = { sent.toBlock with reqState := .idle, canWrite := true } ∧
    after .reqTimeout State.reset = State.reset.answered .noRequest := by decide +kernel

/-- V7.10 to V7.13. -/
theorem test_reqAbort :
    [eventsOf (.reqAbort 0x06) armed, eventsOf (.reqAbort 0x08) sent] =
      [[.resolve .writeTimeout false .none], [.resolve .aborted false .none]] ∧
    (after (.reqAbort 0x06) armed).toBlock = { armed.toBlock with reqState := .idle } ∧
    after (.reqAbort 0x08) opened = opened.answered .noRequest ∧
    after (.reqAbort 0x00) opened = opened.answered .refused := by decide +kernel

/-! ### Witnesses: the hypotheses of each statement are met together, clause by clause, at the ends of their ranges -/

theorem witness_StepRunsTheQueuedOperation :
    decode [0x08] = .ok (.writeStart, []) ∧ decode [0x0D, 0x0D] = .ok (.tick, [0x0D]) ∧
    { State.reset with inputs := [.code [0x08]] }.inputs = .code [0x08] :: [] ∧
    { State.reset with inputs := [.call .tick] }.inputs = .call .tick :: [] ∧
    Instr.writeStart ≠ .idleFire ∧ Instr.tick ≠ .idleFire ∧
    ([0x20] : List Byte) ≠ [] ∧ decode [0x20] = .error (.notAnOpcode 0x20) ∧
    ∀ code, DecodeError.notAnOpcode 0x20 ≠ .reservedOp code :=
  ⟨rfl, rfl, rfl, rfl, by decide, by decide, by decide, rfl, fun _ => by simp⟩

theorem witness_ReservedAndInternalCodesAreRefused :
    (∀ code ∈ ([0x15, 0x1F, 0x0E] : List Byte), (0x15 ≤ code.toNat ∧ code.toNat ≤ 0x1F) ∨ code.toNat = 0x0E) ∧
    { State.reset with inputs := [.code [0x15]] }.inputs = .code (0x15 :: []) :: [] ∧
    { State.reset with inputs := [.call .idleFire] }.inputs = .call .idleFire :: [] := ⟨by decide, rfl, rfl⟩

theorem witness_NothingHappensUninvoked : State.reset.inputs = [] := rfl

theorem witness_EveryOperationIsTotal :
    answerOf .writeStart State.reset = some .noFrame ∧ Result.noFrame.refuses = true := by decide +kernel

theorem witness_ChecksumIsLinear :
    ([0xFA, 0xFF] : List Byte).length = ([0x01, 0x00] : List Byte).length ∧ 0 < 8 ∧ 7 < 8 := by decide

theorem witness_BuildMakesTheRequestFrame :
    ([] : List Byte).length ≤ 255 ∧ (List.replicate 255 (0x00 : Byte)).length ≤ 255 ∧ 255 < long.length := by decide +kernel

theorem witness_BuiltFramesRoundTrip :
    ([] : List Byte).length ≤ 255 ∧ (List.replicate 255 (0x00 : Byte)).length ≤ 255 ∧
    (∀ b ∈ ([0x02, 0x01, 0x00] : List Byte), b ∈ [(0x02 : Byte), 0x01, 0x00]) ∧
    buildFrame 0xFA 0xFF 0x02 [0x00] = buildFrame 0xFA 0xFF 0x02 [0x00] := by decide +kernel

theorem witness_IssueArmsOneRequest :
    armed.reqState ≠ .idle ∧ sent.reqState ≠ .idle ∧ opened.reqState = .idle ∧ 255 < long.length ∧
    (List.replicate 255 (0x00 : Byte)).length ≤ 255 ∧
    [opened, { opened with syncState := .a }, { opened with syncState := .b }].map (fun s => s.syncState) =
      [.start, .a, .b] := by decide +kernel

theorem witness_MeterRequestsIssueTheirOpcode :
    opened.reqState = .idle ∧ armed.reqState ≠ .idle ∧ (List.replicate 254 (0x00 : Byte)).length ≤ 254 ∧
    254 < (List.replicate 255 (0x00 : Byte)).length := by decide +kernel

theorem witness_SyncSequencerMovesOnlyAsListed :
    exec (.issue 0xFA 0xFF [0x00]) opened = .next (after (.issue 0xFA 0xFF [0x00]) opened) ∧
    (after (.issue 0xFA 0xFF [0x00]) opened).results = opened.results ++ [.accepted] ∧
    exec .tick opened = .next (after .tick opened) ∧
    (after .tick opened).results ≠ opened.results ++ [.accepted] ∧ Instr.tick ≠ .reset ∧ Instr.tick ≠ .linkOpen ∧
    exec .linkOpen opened = .next (after .linkOpen opened) := by
  refine ⟨rfl, rfl, rfl, by decide +kernel, by decide, by decide, rfl⟩

theorem witness_WriteStartSendsTheStoredFrame :
    opened.reqState ≠ .armed ∧ armed.reqState = .armed ∧ { armed with isOpen := false }.isOpen = false ∧
    armed.isOpen = true ∧ { armed with canWrite := false }.canWrite = false ∧ armed.canWrite = true := by
  decide +kernel

theorem witness_TryParseReadsTheFrame :
    ([0x7E, 0x7E, 0xFF, 0xFA, 0x80] : List Byte).length < 6 ∧ ([0x8C] : List Byte).length < (0x00 : Byte).toNat + 2 ∧
    (List.replicate 256 (0x00 : Byte)).length < (0xFF : Byte).toNat + 2 ∧
    ([] : List Byte).length = (0x00 : Byte).toNat ∧
    (List.replicate 255 (0x00 : Byte)).length = (0xFF : Byte).toNat := by decide +kernel

theorem witness_TryParseIsMonotone :
    tryParse good = .complete goodResponse true ∧
    tryParse (good.take 8) = .partialFrame ⟨0xFF, 0xFA, 0x80, 0x01⟩ ∧
    tryParse (good.take 6) = .partialFrame ⟨0xFF, 0xFA, 0x80, 0x01⟩ := by decide +kernel

theorem witness_RxDataAppendsOrShortCircuits :
    let five : List Byte := [0x7E, 0x7E, 0xFF, 0xFA, 0xA0]
    (five.length < 6 ∧ five[4]? = some 0xA0 ∧ (0xA0 : Byte) &&& 0x60 ≠ 0x00) ∧
    ((five ++ [0x00]).length = 6 ∧ (five ++ [0x00])[4]? = some 0xA0) ∧
    (good[4]? = some 0x80 ∧ (0x80 : Byte) &&& 0x60 = 0x00) ∧
    sent.reqState ≠ .idle ∧ opened.reqState = .idle ∧ sent.rxBuf = [] := by decide +kernel

theorem witness_TickCountsThenFires :
    sent.idleArmed = false ∧ (receiving good).idleArmed = true ∧ (receiving good).idleCnt + 1 < Config.hw.tIdle ∧
    { receiving good with idleCnt := Config.hw.tIdle - 2 }.idleCnt + 1 < Config.hw.tIdle ∧
    Config.hw.tIdle ≤ { receiving good with idleCnt := Config.hw.tIdle - 1 }.idleCnt + 1 := by
  have h := Config.hw_tIdle_ge
  refine ⟨rfl, rfl, ?_, ?_, ?_⟩
  · show 0 + 1 < Config.hw.tIdle
    omega
  · show Config.hw.tIdle - 2 + 1 < Config.hw.tIdle
    omega
  · show Config.hw.tIdle ≤ Config.hw.tIdle - 1 + 1
    omega

/-- Each case of the disposition, with and without an outstanding request. -/
theorem witness_IdleFireDisposesOfTheBuffer :
    tryParse (receiving [0x7E]).rxBuf = .short ∧
    tryParse (receiving (good.take 8)).rxBuf = .partialFrame ⟨0xFF, 0xFA, 0x80, 0x01⟩ ∧ (0x80 : Byte) &&& 0x60 = 0x00 ∧
    tryParse (receiving [0x7E, 0x7E, 0xFF, 0xFA, 0xA0, 0x00]).rxBuf = .partialFrame ⟨0xFF, 0xFA, 0xA0, 0x00⟩ ∧
    (0xA0 : Byte) &&& 0x60 ≠ 0x00 ∧
    tryParse (receiving [0x7E, 0x7E, 0xFF, 0xFA, 0xA0, 0x00, 0x8C, 0xCE]).rxBuf = .complete
      { goodResponse with statusByte := 0xA0, dataLength := 0x00, data := [], returnCode := none } true ∧
    tryParse (receiving [0x7E, 0x7E, 0xFF, 0xFA, 0x80, 0x01, 0x00, 0x91, 0xE0]).rxBuf = .complete goodResponse false ∧
    tryParse (receiving good).rxBuf = .complete goodResponse true ∧ goodResponse.statusByte = 0x80 ∧
    (receiving good).reqState ≠ .idle ∧ { receiving good with reqState := .idle }.reqState = .idle := by decide +kernel

/-- The whole frame on an empty buffer, the last byte on the rest of it, and a frame with extra bytes. -/
theorem witness_ResponseIsDeliveredAtTheLastTick :
    sent.reqState ≠ .idle ∧ good ≠ [] ∧ tryParse (sent.rxBuf ++ good) = .complete goodResponse true ∧
    tryParse ((receiving (good.take 8)).rxBuf ++ good.drop 8) = .complete goodResponse true ∧
    tryParse (sent.rxBuf ++ (good ++ [0x55])) = .complete goodResponse true ∧
    goodResponse.statusByte &&& 0x60 = 0x00 ∧ 0 < Config.hw.tIdle ∧ Config.hw.tIdle - 1 < Config.hw.tIdle := by
  have h := Config.hw_tIdle_ge
  exact ⟨by decide +kernel, by decide, by decide +kernel, by decide +kernel, by decide +kernel, by decide, by omega,
    by omega⟩

/-- Split after the first byte, in the header, and before the last byte. -/
theorem witness_SplitResponseIsDeliveredOnce :
    sent.rxBuf = [] ∧ sent.reqState ≠ .idle ∧ good.length = 8 + goodResponse.dataLength.toNat ∧
    tryParse good = .complete goodResponse true ∧ goodResponse.statusByte &&& 0x60 = 0x00 ∧
    ∀ n ∈ [1, 4, 8], good.take n ++ good.drop n = good ∧ good.take n ≠ [] ∧ good.drop n ≠ [] := by decide +kernel

/-- States that meet the invariant: after reset, with a partial frame, and with a whole one. -/
theorem inv_receiving {n : Nat} (hn : n = 7 ∨ n = 9) :
    ({ State.reset with rxBuf := good.take n, idleArmed := true } : State).Inv := by
  have h := Config.hw_tIdle_ge
  constructor
  · exact fun _ => rfl
  · show 0 < Config.hw.tIdle
    omega
  · rcases hn with rfl | rfl <;> decide +kernel
  · rcases hn with rfl | rfl <;> decide +kernel
  · exact fun h => absurd rfl h
  · exact .inl rfl

theorem witness_IdleFireFindsNoStatusFailure :
    (({ State.reset with rxBuf := good.take 7, idleArmed := true } : State).Inv ∧
      tryParse (good.take 7) = .partialFrame ⟨0xFF, 0xFA, 0x80, 0x01⟩) ∧
    ({ State.reset with rxBuf := good.take 9, idleArmed := true } : State).Inv ∧
      tryParse (good.take 9) = .complete goodResponse true :=
  ⟨⟨inv_receiving (.inl rfl), by decide +kernel⟩, inv_receiving (.inr rfl), by decide +kernel⟩

theorem witness_LinkCloseAndErrorFailTheRequest :
    opened.reqState = .idle ∧ armed.reqState ≠ .idle ∧ sent.reqState ≠ .idle := by decide +kernel

theorem witness_LinkDrainMakesWritableWhileOpen : sent.isOpen = true ∧ State.reset.isOpen = false := by decide +kernel

theorem witness_ReqTimeoutResolvesAndFreesTheLink :
    opened.reqState = .idle ∧ armed.reqState ≠ .idle ∧ sent.reqState ≠ .idle := by decide +kernel

theorem witness_ReqAbortEndsTheRequestOnly :
    (∀ b ∈ ([0x00, 0x05, 0x07, 0x09, 0xFF] : List Byte), b ≠ 6 ∧ b ≠ 8) ∧ opened.reqState = .idle ∧
    armed.reqState ≠ .idle := by decide +kernel

/-- For each item an operation that changes it, and so meets its clause's hypothesis. -/
theorem witness_ItemsAreWrittenOnlyAsListed :
    (∀ i ∈ ([.crcLoad 0x0000, .linkOpen, .linkClose, .idleFire, .rxFlush] : List Instr),
      exec i sent = .next (after i sent)) ∧
    (after (.crcLoad 0x0000) sent).crc ≠ sent.crc ∧ (after .linkOpen sent).syncState ≠ sent.syncState ∧
    (after .linkClose sent).isOpen ≠ sent.isOpen ∧ (after .idleFire (receiving good)).canWrite ≠ sent.canWrite ∧
    (after .idleFire (receiving good)).reqState ≠ sent.reqState ∧
    (after (.issue 0xFA 0xFF []) opened).txFrame ≠ opened.txFrame ∧ (after (.rxData [0x7E]) sent).rxBuf ≠ sent.rxBuf ∧
    (after .rxFlush (receiving [0x7E])).rxBuf ≠ [0x7E] ∧
    (after (.rxData [0x7E]) sent).idleArmed ≠ sent.idleArmed ∧
    (after .idleFire (receiving [0x7E])).idleArmed ≠ true ∧
    (after .rxFlush { receiving [0x7E] with idleCnt := 1 }).idleCnt ≠ 1 ∧
    (tick 100 (receiving [0x7E]).toBlock).block.idleCnt ≠ 0 := by
  refine ⟨?_, by decide +kernel⟩
  intro i hi
  simp only [List.mem_cons, List.not_mem_nil, or_false] at hi
  rcases hi with rfl | rfl | rfl | rfl | rfl <;> rfl

/-- `exec` answers a next state on every row of the table, and the register moves on every row. -/
theorem witness_RequestStateMachine :
    let badSum : List Byte := [0x7E, 0x7E, 0xFF, 0xFA, 0x80, 0x01, 0x20, 0xC1, 0x91]
    let failing : List Byte := [0x7E, 0x7E, 0xFF, 0xFA, 0xA0, 0x00]
    let rows : List (Instr × State) :=
      [(.issue 0xFA 0xFF [], opened), (.writeStart, armed), (.idleFire, receiving good), (.idleFire, receiving badSum),
        (.idleFire, receiving failing), (.rxData failing, sent), (.linkClose, sent), (.linkError, armed),
        (.reqTimeout, sent), (.reqAbort 6, armed), (.reqAbort 8, sent), (.reset, sent)]
    (∀ p ∈ rows, exec p.1 p.2 = .next (after p.1 p.2)) ∧
    (∀ p ∈ rows, (after p.1 p.2).reqState ≠ p.2.reqState) ∧
    tryParse good = .complete goodResponse true ∧
    tryParse badSum = .complete { goodResponse with data := [0x20], returnCode := some 0x20 } false := by
  refine ⟨?_, by decide +kernel, by decide +kernel, by decide +kernel⟩
  intro p _
  simp only [after, exec_eq]

/-- The tick that completes `T_IDLE`, and one that does not, with a good frame in the buffer. -/
theorem witness_firesIdle :
    firesIdle .tick { (receiving good).toBlock with idleCnt := Config.hw.tIdle - 1 } ∧
    ¬ firesIdle .tick (receiving good).toBlock := by
  have h := Config.hw_tIdle_ge
  refine ⟨.inr ⟨rfl, rfl, ?_⟩, ?_⟩
  · show Config.hw.tIdle ≤ Config.hw.tIdle - 1 + 1
    omega
  · rintro (h' | ⟨-, -, hc⟩)
    · cases h'
    · have hc' : Config.hw.tIdle ≤ 0 + 1 := hc
      omega

theorem witness_EveryAcceptedRequestResolvesOnce :
    Instr.reset ∉ [Instr.issue 0xFA 0xFF [0x00], .linkClose] ∧
    (execAll [.issue 0xFA 0xFF [0x00], .linkClose] opened).isSome = true := by decide +kernel

theorem witness_OneRequestInFlight :
    Instr.reset ∉ [Instr.linkDrain, .writeStart] ∧ sent.reqState = .sent ∧
    ∃ t : State, execAll [.linkDrain, .writeStart] sent = some t ∧
      t.events.countP Event.resolves = sent.events.countP Event.resolves :=
  ⟨by decide, rfl, _, rfl, by decide +kernel⟩

theorem witness_RepeatedOperationsAreIdempotent :
    Instr.linkClose ∈ ([.linkOpen, .linkClose, .linkError, .linkDrain, .rxFlush, .crcLoad 0x0000, .reset] : List Instr) ∧
    exec .linkClose sent = .next (after .linkClose sent) := ⟨by decide, rfl⟩

theorem witness_StepKeepsTheInvariant :
    ({ State.reset with rxBuf := good.take 9, idleArmed := true } : State).Inv ∧
    step { State.reset with rxBuf := good.take 9, idleArmed := true } =
      .next { State.reset with rxBuf := good.take 9, idleArmed := true } := ⟨inv_receiving (.inr rfl), rfl⟩

/-- An armed request on a writable link meets the invariant, and its write transmits. -/
theorem witness_TransmittedFramesAreValid :
    armed.Inv ∧ exec .writeStart armed = .next (after .writeStart armed) ∧
    (after .writeStart armed).events = armed.events ++ [.tx frame1] := by
  have h := Config.hw_tIdle_ge
  refine ⟨?_, rfl, by decide +kernel⟩
  constructor
  · exact fun _ => rfl
  · show 0 < Config.hw.tIdle
    omega
  · exact fun _ => rfl
  · decide +kernel
  · exact fun _ => by decide
  · exact .inr ⟨0xFA, 0xFF, .start, [0x00], by decide, by decide +kernel⟩

theorem witness_LostFrameStallsTheRequest : sent.idleArmed = false ∧ sent.reqState ≠ .idle := by decide +kernel

theorem witness_ShortCircuitLeavesTheTail :
    sent.rxBuf = [] ∧ sent.reqState ≠ .idle ∧ (0x20 : Byte) &&& 0x60 ≠ 0x00 ∧ (0x40 : Byte) &&& 0x60 ≠ 0x00 := by
  decide +kernel

/-- The first and the last bit the statement covers. -/
theorem witness_FlippedBitIsDetected :
    0 < ([0xFA, 0xFF] : List Byte).length ∧ 1 < ([0xFA, 0xFF] : List Byte).length ∧
    tryParse good = .complete goodResponse true ∧ (2 ≤ 2 ∧ 2 ≠ 5 ∧ 2 < 8 + goodResponse.dataLength.toNat) ∧
    (2 ≤ 8 ∧ 8 ≠ 5 ∧ 8 < 8 + goodResponse.dataLength.toNat) ∧ 0 < 8 ∧ 7 < 8 ∧
    tryParse (good.set 8 0x11) = .complete goodResponse false := by decide +kernel

/-- V4.25: a frame with two data bytes, and the first and last bit. -/
theorem witness_TwoBitErrorsPassTheChecksum :
    tryParse [0x7E, 0x7E, 0xFF, 0xFA, 0x81, 0x02, 0x00, 0xAA, 0x60, 0x70] = .complete
      { goodResponse with statusByte := 0x81, dataLength := 0x02, data := [0x00, 0xAA] } true ∧
    1 ≤ (0x02 : Byte).toNat ∧ 2 ≤ (0x02 : Byte).toNat ∧ 1 ≤ goodResponse.dataLength.toNat ∧
    tryParse good = .complete goodResponse true ∧ 0 < 8 ∧ 7 < 8 := by decide +kernel

theorem witness_DecodeReadsEveryEncoding :
    (Instr.getField 0xFA 0xFF (List.replicate 254 0x00)).wellFormed = true ∧
    (Instr.issue 0xFA 0xFF [0x22]).wellFormed = true ∧ Instr.reset.wellFormed = true := by decide +kernel

theorem witness_IssueWordsRunIssue :
    ([] : List Byte).length ≤ 255 ∧ (List.replicate 255 (0x20 : Byte)).length ≤ 255 := by decide +kernel

end Sys2Proof.Tests
end

namespace Sys2Proof.Machine

/-! ### What an operation writes and emits, said once -/

/-- `Moves b i c ev`: from block `b` the operation `i` leaves block `c` and emits `ev`. One constructor for each way an
operation writes the block, under the condition its rule gives; `effectOf_moves` ties it to the model. -/
inductive Moves (b : Block) : Instr → Block → List Event → Prop where
  /-- Nothing is written: a value, a refusing result, a tick with the timer disarmed (R82, R160, R217). -/
  | stay (i : Instr) : Moves b i b []
  | reset : Moves b .reset resetBlock []
  | crcLoad (v : Word16) : Moves b (.crcLoad v) { b with crc := v } []
  | crcBit (d : Bool) : Moves b (.crcBit d) { b with crc := bitStep b.crc d } []
  | crcByte (x : Byte) : Moves b (.crcByte x) { b with crc := byteStep b.crc x } []
  /-- An accepted `ISSUE` or meter request (R113, log 8). -/
  | issue {i : Instr} {node port : Byte} {payload : List Byte} (hreq : requestOf i = some (node, port, payload))
      (hidle : b.reqState = .idle) (hlen : payload.length ≤ 255) :
      Moves b i { b with
        txFrame := buildFrame node port (syncValue b.syncState) payload
        syncState := nextSync b.syncState
        reqState := .armed } []
  /-- A started write (R114). -/
  | writeStart (harmed : b.reqState = .armed) (hopen : b.isOpen = true) (hwrite : b.canWrite = true) :
      Moves b .writeStart { b with canWrite := false, reqState := .sent } [.tx b.txFrame]
  /-- `RX_DATA` that retains what it appended (R135). -/
  | rxAppend {bs : List Byte} (hne : bs ≠ []) (hclear : shortCircuits (b.rxBuf ++ bs) = false) :
      Moves b (.rxData bs) (rxAppend b bs) []
  /-- `RX_DATA` short-circuited by the status byte (R136, R137). -/
  | rxFail {bs : List Byte} (hne : bs ≠ []) (hfail : shortCircuits (b.rxBuf ++ bs) = true) :
      Moves b (.rxData bs) (deviceFail (b.rxBuf ++ bs) b).1 (deviceFail (b.rxBuf ++ bs) b).2
  | rxFlush : Moves b .rxFlush (rxClear b) []
  /-- A `TICK` that counts (R160). -/
  | count (harmed : b.idleArmed = true) (hbelow : b.idleCnt + 1 < Config.hw.tIdle) :
      Moves b .tick { b with idleCnt := b.idleCnt + 1 } []
  /-- An idle fire (R161). -/
  | fire {i : Instr} (hfires : firesIdle i b) : Moves b i (idleFire b).1 (idleFire b).2
  | linkOpen : Moves b .linkOpen { b with isOpen := true, canWrite := true, syncState := .start } []
  /-- `LINK_CLOSE` and `LINK_ERROR` (R181, R182). -/
  | linkDown {i : Instr} (cause : LinkCause) (hi : i = .linkClose ∨ i = .linkError) :
      Moves b i (linkDown cause b).block (linkDown cause b).events
  | linkDrain : Moves b .linkDrain { b with canWrite := if b.isOpen then true else b.canWrite } []
  /-- `REQ_TIMEOUT` with a request outstanding (R184). -/
  | timeout (hpending : b.reqState ≠ .idle) :
      Moves b .reqTimeout (raise .requestTimeout .none (rxClear { b with canWrite := true })).1
        (raise .requestTimeout .none (rxClear { b with canWrite := true })).2
  /-- `REQ_ABORT` with a known reason and a request outstanding (R185). -/
  | abort {reason : Byte} {o : ReqOutcome} (hreason : abortOutcome reason = some o) (hpending : b.reqState ≠ .idle) :
      Moves b (.reqAbort reason) (raise o .none b).1 (raise o .none b).2

/-- What a link-down event leaves of the block (R181, R182). -/
@[simp] theorem linkDown_block (cause : LinkCause) (b : Block) :
    (linkDown cause b).block = { rxClear b with isOpen := false, canWrite := false, reqState := .idle } :=
  raise_block _ _ _

/-- What `REQ_TIMEOUT` does (R184), by whether a request is outstanding. -/
theorem reqTimeout_cases (b : Block) :
    (b.reqState = .idle ∧ reqTimeout b = .answer b .noRequest) ∨
    (b.reqState ≠ .idle ∧ reqTimeout b =
      raiseAnswering .requestTimeout .none (rxClear { b with canWrite := true }) .done) := by
  unfold reqTimeout
  cases b.reqState <;> simp

/-- What `REQ_ABORT` does (R185): the reason is tested before the request register. -/
theorem reqAbort_cases (reason : Byte) (b : Block) :
    (∃ r : Result, reqAbort reason b = .answer b r) ∨
    (∃ o : ReqOutcome, abortOutcome reason = some o ∧ b.reqState ≠ .idle ∧
      reqAbort reason b = raiseAnswering o .none b .done) := by
  unfold reqAbort
  cases abortOutcome reason with
  | none => exact .inl ⟨.refused, rfl⟩
  | some o =>
    cases b.reqState
    · exact .inl ⟨.noRequest, rfl⟩
    · exact .inr ⟨o, rfl, by simp, rfl⟩
    · exact .inr ⟨o, rfl, by simp, rfl⟩

/-- The two reasons `REQ_ABORT` takes (R185, log 14). -/
theorem reason_of_abortOutcome {reason : Byte} {o : ReqOutcome} (h : abortOutcome reason = some o) :
    reason = 6 ∨ reason = 8 := by
  unfold abortOutcome at h
  split_ifs at h with h6 h8
  · exact .inl h6
  · exact .inr h8

/-- An operation that carries a request issues it or leaves the block (R113). -/
theorem effectOf_moves_of_request {i : Instr} {node port : Byte} {payload : List Byte} (b : Block)
    (h : requestOf i = some (node, port, payload)) : Moves b i (effectOf i b).block (effectOf i b).events := by
  rw [effectOf_request h]
  rcases issue_cases node port payload b with ⟨-, e⟩ | ⟨-, -, e⟩ | ⟨hidle, hlen, e⟩ <;> rw [e]
  · exact .stay i
  · exact .stay i
  · exact .issue h hidle hlen

/-- The effect of every operation on every block is one of `Moves`. -/
theorem effectOf_moves (i : Instr) (b : Block) : Moves b i (effectOf i b).block (effectOf i b).events := by
  cases hreq : requestOf i with
  | some q => exact effectOf_moves_of_request b hreq
  | none =>
    cases i with
    | reset => exact .reset
    | crcLoad v => exact .crcLoad v
    | crcBit d => exact .crcBit d
    | crcByte x => exact .crcByte x
    | writeStart =>
      rcases writeStart_cases b with ⟨r, -, e⟩ | ⟨harmed, hopen, hwrite, e⟩ <;> simp only [effectOf, e]
      · exact .stay _
      · exact .writeStart harmed hopen hwrite
    | rxData bs =>
      rcases rxData_cases bs b with ⟨-, e⟩ | ⟨hne, hclear, e⟩ | ⟨hne, hfail, e⟩ <;> simp only [effectOf, e]
      · exact .stay _
      · exact .rxAppend hne hclear
      · exact .rxFail hne hfail
    | rxFlush => exact .rxFlush
    | tick =>
      by_cases hfires : firesIdle .tick b
      · rw [effectOf_fires hfires]
        exact .fire hfires
      · rcases effectOf_tick_quiet hfires with e | ⟨harmed, hbelow, e⟩ <;> rw [e]
        · exact .stay _
        · exact .count harmed hbelow
    | idleFire => exact .fire (.inl rfl)
    | linkOpen => exact .linkOpen
    | linkClose => exact .linkDown .closed (.inl rfl)
    | linkError => exact .linkDown .error (.inr rfl)
    | linkDrain => exact .linkDrain
    | reqTimeout =>
      rcases reqTimeout_cases b with ⟨-, e⟩ | ⟨hpending, e⟩ <;> simp only [effectOf, e]
      · exact .stay _
      · exact .timeout hpending
    | reqAbort reason =>
      rcases reqAbort_cases reason b with ⟨r, e⟩ | ⟨o, hreason, hpending, e⟩ <;> simp only [effectOf, e]
      · exact .stay _
      · exact .abort hreason hpending
    | crcRead | checksum _ _ | build _ _ _ _ | tryParse _ | statusDecode _ => exact .stay _
    | _ => cases hreq

/-- All a step that answers a next state can do (R50, R83, R231): nothing, one operation, or a refusal; only the queue
moves besides. -/
theorem step_cases {s t : State} (h : step s = .next t) :
    (fetch s.inputs = .nothing ∧ t = s) ∨
    (∃ i rest, fetch s.inputs = .run i rest ∧ t = ({ s with inputs := rest } : State).commit (effectOf i s.toBlock)) ∨
    (∃ rest, fetch s.inputs = .turnedAway rest ∧ t = answerRefused { s with inputs := rest }) := by
  unfold step at h
  cases hf : fetch s.inputs with
  | nothing =>
    rw [hf] at h
    exact .inl ⟨rfl, (Host.Outcome.next.inj h).symm⟩
  | run i rest =>
    rw [hf] at h
    exact .inr (.inl ⟨i, rest, rfl, exec_next h⟩)
  | turnedAway rest =>
    rw [hf] at h
    exact .inr (.inr ⟨rest, rfl, (Host.Outcome.next.inj h).symm⟩)
  | malformed reason =>
    rw [hf] at h
    cases h

/-! ### The invariant of R22 and R16 -/

section Invariant

variable {b c : Block}

/-- The invariant speaks of five items only. -/
theorem Block.Inv.of_eq (h : b.Inv) (hbuf : c.rxBuf = b.rxBuf) (harmed : c.idleArmed = b.idleArmed)
    (hcnt : c.idleCnt = b.idleCnt) (hreq : c.reqState = b.reqState) (htx : c.txFrame = b.txFrame) : c.Inv where
  disarmedCount := by rw [harmed, hcnt]; exact h.disarmedCount
  countBelow := by rw [hcnt]; exact h.countBelow
  emptyDisarmed := by rw [hbuf, harmed]; exact h.emptyDisarmed
  statusClear := by rw [hbuf]; exact h.statusClear
  pendingFrame := by rw [hreq, htx]; exact h.pendingFrame
  frameBuilt := by rw [htx]; exact h.frameBuilt

/-- A count of 0 is below `T_IDLE` (R5). -/
theorem tIdle_pos : 0 < Config.hw.tIdle := Nat.lt_of_lt_of_le (by decide) Config.hw_tIdle_ge

/-- The block after `RESET` meets the invariant (R22, R30). -/
theorem Block.inv_reset : Block.reset.Inv where
  disarmedCount := fun _ => rfl
  countBelow := tIdle_pos
  emptyDisarmed := fun _ => rfl
  statusClear := fun h => absurd h (by decide)
  pendingFrame := fun h => absurd rfl h
  frameBuilt := .inl rfl

/-- Disarming the timer keeps the invariant. -/
theorem Block.Inv.disarm (h : b.Inv) : ({ b with idleArmed := false, idleCnt := 0 } : Block).Inv :=
  { h with disarmedCount := fun _ => rfl, countBelow := tIdle_pos, emptyDisarmed := fun _ => rfl }

/-- The link bits are free in the invariant. -/
theorem Block.Inv.setLink (h : b.Inv) (isOpen canWrite : Bool) :
    ({ b with isOpen := isOpen, canWrite := canWrite } : Block).Inv := h.of_eq rfl rfl rfl rfl rfl

/-- Clearing the receive buffer keeps the invariant (R138). -/
theorem Block.Inv.rxClear (h : b.Inv) : (rxClear b).Inv :=
  { h.disarm with emptyDisarmed := fun _ => rfl, statusClear := fun h6 => absurd h6 (by decide : ¬ 6 ≤ 0) }

/-- Freeing the request register keeps the invariant. -/
theorem Block.Inv.free (h : b.Inv) : ({ b with reqState := .idle } : Block).Inv :=
  { h with pendingFrame := fun hne => absurd rfl hne }

/-- `raise` keeps the invariant (R210). -/
theorem Block.Inv.raise (h : b.Inv) (o : ReqOutcome) (info : Info) : (raise o info b).1.Inv := by
  rw [raise_block]
  exact h.free

/-- A receive event that does not short-circuit keeps the invariant (R135, R136). -/
theorem Block.Inv.rxAppend (h : b.Inv) {bs : List Byte} (hne : bs ≠ [])
    (hclear : shortCircuits (b.rxBuf ++ bs) = false) : (rxAppend b bs).Inv :=
  { h with
    disarmedCount := fun _ => rfl
    countBelow := tIdle_pos
    emptyDisarmed := fun hnil => absurd (List.append_eq_nil_iff.mp hnil).2 hne
    statusClear := (shortCircuits_false_iff _).mp hclear }

/-- A counting tick keeps the invariant (R160). -/
theorem Block.Inv.count (h : b.Inv) (harmed : b.idleArmed = true) (hbelow : b.idleCnt + 1 < Config.hw.tIdle) :
    ({ b with idleCnt := b.idleCnt + 1 } : Block).Inv :=
  { h with
    disarmedCount := fun hdis => absurd (harmed.symm.trans hdis) (by decide)
    countBelow := hbelow }

/-- An accepted request keeps the invariant: the frame it stores is one the encoder built (R111, R113). -/
theorem Block.Inv.issue (h : b.Inv) (node port : Byte) {payload : List Byte} (hlen : payload.length ≤ 255) :
    ({ b with
      txFrame := buildFrame node port (syncValue b.syncState) payload
      syncState := nextSync b.syncState
      reqState := .armed } : Block).Inv :=
  { h with
    pendingFrame := fun _ => by simp
    frameBuilt := .inr ⟨node, port, b.syncState, payload, hlen, rfl⟩ }

/-- A started write keeps the invariant: it leaves an armed request's frame in place (R114). -/
theorem Block.Inv.writeStart (h : b.Inv) (harmed : b.reqState = .armed) :
    ({ b with canWrite := false, reqState := .sent } : Block).Inv :=
  { h with pendingFrame := fun _ => h.pendingFrame (by simp [harmed]) }

/-- An idle fire keeps the invariant: it disarms the timer, and clears the buffer or leaves it (R161 to R165). -/
theorem Block.Inv.idleFire (h : b.Inv) : (idleFire b).1.Inv := by
  rcases idleFire_block b with e | ⟨-, e | ⟨-, e⟩⟩ <;> rw [e]
  · exact h.disarm
  · exact h.rxClear.free
  · exact (h.rxClear.setLink b.isOpen true).free

/-- Every operation keeps the invariant. -/
theorem Moves.keeps_inv {i : Instr} {ev : List Event} (hm : Moves b i c ev) (h : b.Inv) : c.Inv := by
  cases hm with
  | stay => exact h
  | reset => exact Block.inv_reset
  | crcLoad | crcBit | crcByte | linkOpen | linkDrain => exact h.of_eq rfl rfl rfl rfl rfl
  | issue _ _ hlen => exact h.issue _ _ hlen
  | writeStart harmed => exact h.writeStart harmed
  | rxAppend hne hclear => exact h.rxAppend hne hclear
  | rxFail => exact h.rxClear.raise _ _
  | rxFlush => exact h.rxClear
  | count harmed hbelow => exact h.count harmed hbelow
  | fire => exact h.idleFire
  | linkDown => exact (h.setLink false false).rxClear.raise _ _
  | timeout => exact (h.setLink b.isOpen true).rxClear.raise _ _
  | abort => exact h.raise _ _

end Invariant

/-- Settles O42: a step leaves the block, or runs one operation on it, and every operation keeps the invariant. -/
theorem stepKeepsTheInvariant : Obligations.StepKeepsTheInvariant := by
  unfold Obligations.StepKeepsTheInvariant
  intro s t hs ht
  rcases step_cases ht with ⟨-, rfl⟩ | ⟨i, rest, -, rfl⟩ | ⟨rest, -, rfl⟩
  · exact hs
  · exact (effectOf_moves i s.toBlock).keeps_inv hs
  · exact hs

/-- Settles O43: the reset block of R30 meets every clause. -/
theorem resetMeetsTheInvariant : Obligations.ResetMeetsTheInvariant := Block.inv_reset

/-! ### Which operations write which item -/

section Writers

variable {b c : Block} {i : Instr} {ev : List Event}

/-- The CRC register is written by `RESET` and the three CRC operations that feed or load it (R11). -/
theorem Moves.crc_writers (h : Moves b i c ev) (hne : c.crc ≠ b.crc) :
    i = .reset ∨ (∃ v, i = .crcLoad v) ∨ (∃ d, i = .crcBit d) ∨ ∃ x, i = .crcByte x := by
  cases h with
  | reset => exact .inl rfl
  | crcLoad v => exact .inr (.inl ⟨v, rfl⟩)
  | crcBit d => exact .inr (.inr (.inl ⟨d, rfl⟩))
  | crcByte x => exact .inr (.inr (.inr ⟨x, rfl⟩))
  | _ => exact absurd (by simp [deviceFail_block]) hne

/-- The sequencer is written by `RESET`, `LINK_OPEN` and an accepted request (R12). -/
theorem Moves.syncState_writers (h : Moves b i c ev) (hne : c.syncState ≠ b.syncState) :
    i = .reset ∨ i = .linkOpen ∨ (requestOf i).isSome := by
  cases h with
  | reset => exact .inl rfl
  | linkOpen => exact .inr (.inl rfl)
  | issue hreq => exact .inr (.inr (by simp [hreq]))
  | _ => exact absurd (by simp [deviceFail_block]) hne

/-- `is_open` is written by `RESET` and the link events (R13). -/
theorem Moves.isOpen_writers (h : Moves b i c ev) (hne : c.isOpen ≠ b.isOpen) :
    i = .reset ∨ i = .linkOpen ∨ i = .linkClose ∨ i = .linkError := by
  cases h with
  | reset => exact .inl rfl
  | linkOpen => exact .inr (.inl rfl)
  | linkDown _ hi => exact .inr (.inr hi)
  | _ => exact absurd (by simp [deviceFail_block]) hne

/-- An idle fire writes `can_write` on a whole good frame only, and sets it (R14, R163). -/
theorem idleFire_canWrite_ne (hne : (idleFire b).1.canWrite ≠ b.canWrite) :
    (idleFire b).1.canWrite = true ∧ ∃ r, tryParse b.rxBuf = .complete r true := by
  rcases idleFire_block b with e | ⟨-, e | ⟨hgood, e⟩⟩
  · exact absurd (by rw [e]) hne
  · exact absurd (by rw [e]; rfl) hne
  · exact ⟨by rw [e], hgood⟩

/-- `can_write` is written by `RESET`, `WRITE_START`, the link events, `REQ_TIMEOUT`, and an idle fire that delivers
(R14). -/
theorem Moves.canWrite_writers (h : Moves b i c ev) (hne : c.canWrite ≠ b.canWrite) :
    i = .reset ∨ i = .writeStart ∨ i = .linkOpen ∨ i = .linkClose ∨ i = .linkError ∨ i = .linkDrain ∨
      i = .reqTimeout ∨ (firesIdle i b ∧ c.canWrite = true ∧ ∃ r, tryParse b.rxBuf = .complete r true) := by
  cases h with
  | reset | writeStart | linkOpen | linkDrain | timeout => simp
  | linkDown _ hi => rcases hi with rfl | rfl <;> simp
  | fire hfires => simp [hfires, idleFire_canWrite_ne hne]
  | _ => exact absurd (by simp [deviceFail_block]) hne

/-- The request register is written by an accepted request, `WRITE_START`, and whatever ends a request (R15). -/
theorem Moves.reqState_writers (h : Moves b i c ev) (hne : c.reqState ≠ b.reqState) :
    (requestOf i).isSome ∨ i = .writeStart ∨ firesIdle i b ∨
      (∃ bs, i = .rxData bs ∧ bs ≠ [] ∧ shortCircuits (b.rxBuf ++ bs) = true) ∨ i = .linkClose ∨ i = .linkError ∨
      i = .reqTimeout ∨ i = .reqAbort 6 ∨ i = .reqAbort 8 ∨ i = .reset := by
  cases h with
  | issue hreq => simp [hreq]
  | reset | writeStart | timeout => simp
  | fire hfires => simp [hfires]
  | rxFail hnil hfail => exact .inr (.inr (.inr (.inl ⟨_, rfl, hnil, hfail⟩)))
  | linkDown _ hi => rcases hi with rfl | rfl <;> simp
  | abort hreason => rcases reason_of_abortOutcome hreason with rfl | rfl <;> simp
  | _ => exact absurd (by simp) hne

/-- `tx_frame` is written by `RESET` and an accepted request (R16). -/
theorem Moves.txFrame_writers (h : Moves b i c ev) (hne : c.txFrame ≠ b.txFrame) :
    i = .reset ∨ (requestOf i).isSome := by
  cases h with
  | reset => exact .inl rfl
  | issue hreq => exact .inr (by simp [hreq])
  | _ => exact absurd (by simp [deviceFail_block]) hne

/-- An idle fire that moves the buffer clears it, as R17 says. -/
theorem idleFire_rxBuf_ne (hfires : firesIdle i b) (hne : (idleFire b).1.rxBuf ≠ b.rxBuf) :
    clearsBuffer i b ∧ (idleFire b).1.rxBuf = [] := by
  rcases idleFire_block b with e | ⟨hwhy, e | ⟨-, e⟩⟩
  · exact absurd (by rw [e]) hne
  · exact ⟨.inl ⟨hfires, hwhy⟩, by rw [e]; rfl⟩
  · exact ⟨.inl ⟨hfires, hwhy⟩, by rw [e]; rfl⟩

/-- A short-circuited receive event clears the buffer (R17, R136). -/
theorem clearsBuffer_rxData {bs : List Byte} (hnil : bs ≠ []) (hfail : shortCircuits (b.rxBuf ++ bs) = true) :
    clearsBuffer (.rxData bs) b := .inr (.inl ⟨bs, rfl, hnil, hfail⟩)

/-- The link-down events clear the buffer (R17). -/
theorem clearsBuffer_linkDown (hi : i = .linkClose ∨ i = .linkError) : clearsBuffer i b :=
  clearsBuffer_always b (by rcases hi with rfl | rfl <;> simp)

/-- The receive buffer is appended to by `RX_DATA`, or cleared with the timer disarmed by what R17 lists. -/
theorem Moves.rxBuf_writers (h : Moves b i c ev) (hne : c.rxBuf ≠ b.rxBuf) :
    (∃ bs, i = .rxData bs ∧ c.rxBuf = b.rxBuf ++ bs) ∨
      (clearsBuffer i b ∧ c.rxBuf = [] ∧ c.idleArmed = false ∧ c.idleCnt = 0) := by
  cases h with
  | rxAppend => exact .inl ⟨_, rfl, rfl⟩
  | reset | rxFlush => exact .inr ⟨clearsBuffer_always b (by simp), rfl, rfl, rfl⟩
  | timeout => exact .inr ⟨clearsBuffer_always b (by simp), by simp, by simp, by simp⟩
  | rxFail hnil hfail => exact .inr ⟨clearsBuffer_rxData hnil hfail, by simp [deviceFail_block]⟩
  | linkDown _ hi => exact .inr ⟨clearsBuffer_linkDown hi, by simp⟩
  | fire hfires =>
    obtain ⟨hclears, hempty⟩ := idleFire_rxBuf_ne hfires hne
    exact .inr ⟨hclears, hempty, idleFire_idleArmed b, idleFire_idleCnt b⟩
  | _ => exact absurd (by simp) hne

/-- What writes the idle timer (R18, R19): a receive event that arms it at 0, a tick that counts, an idle fire or a clear
that disarms it at 0; else neither item of the timer moves. -/
theorem Moves.timer_cases (h : Moves b i c ev) :
    (c.idleArmed = true ∧ c.idleCnt = 0 ∧ ∃ bs, i = .rxData bs ∧ bs ≠ []) ∨
    (i = .tick ∧ b.idleArmed = true ∧ c.idleArmed = b.idleArmed ∧ c.idleCnt = b.idleCnt + 1 ∧
      c.idleCnt < Config.hw.tIdle) ∨
    (c.idleArmed = false ∧ c.idleCnt = 0 ∧ (firesIdle i b ∨ clearsBuffer i b)) ∨
    (c.idleArmed = b.idleArmed ∧ c.idleCnt = b.idleCnt) := by
  cases h with
  | rxAppend hnil => exact .inl ⟨rfl, rfl, _, rfl, hnil⟩
  | count harmed hbelow => exact .inr (.inl ⟨rfl, harmed, rfl, rfl, hbelow⟩)
  | fire hfires => exact .inr (.inr (.inl ⟨idleFire_idleArmed b, idleFire_idleCnt b, .inl hfires⟩))
  | reset | rxFlush => exact .inr (.inr (.inl ⟨rfl, rfl, .inr (clearsBuffer_always b (by simp))⟩))
  | timeout => exact .inr (.inr (.inl ⟨by simp, by simp, .inr (clearsBuffer_always b (by simp))⟩))
  | rxFail hnil hfail =>
    exact .inr (.inr (.inl ⟨by simp [deviceFail_block], by simp [deviceFail_block],
      .inr (clearsBuffer_rxData hnil hfail)⟩))
  | linkDown _ hi =>
    exact .inr (.inr (.inl ⟨by simp, by simp,
      .inr (clearsBuffer_linkDown hi)⟩))
  | _ => exact .inr (.inr (.inr ⟨by simp, by simp⟩))

/-- The timer is armed by `RX_DATA` alone, and disarmed by an idle fire or a clear (R18). -/
theorem Moves.idleArmed_writers (h : Moves b i c ev) (hne : c.idleArmed ≠ b.idleArmed) :
    (c.idleArmed = true ∧ ∃ bs, i = .rxData bs ∧ bs ≠ []) ∨
      (c.idleArmed = false ∧ (firesIdle i b ∨ clearsBuffer i b)) := by
  rcases h.timer_cases with ⟨harm, -, hrx⟩ | ⟨-, -, hsame, -⟩ | ⟨hdis, -, hwhy⟩ | ⟨hsame, -⟩
  · exact .inl ⟨harm, hrx⟩
  · exact absurd hsame hne
  · exact .inr ⟨hdis, hwhy⟩
  · exact absurd hsame hne

/-- The count is moved by a tick below `T_IDLE` with the timer armed; else `RX_DATA`, an idle fire or a clear zeroes it
(R19). -/
theorem Moves.idleCnt_writers (h : Moves b i c ev) (hne : c.idleCnt ≠ b.idleCnt) :
    (c.idleCnt = 0 ∧ ∃ bs, i = .rxData bs ∧ bs ≠ []) ∨
      (i = .tick ∧ b.idleArmed = true ∧ c.idleCnt = b.idleCnt + 1 ∧ c.idleCnt < Config.hw.tIdle) ∨
      (c.idleCnt = 0 ∧ (firesIdle i b ∨ clearsBuffer i b)) := by
  rcases h.timer_cases with ⟨-, hzero, hrx⟩ | ⟨hi, harmed, -, hcnt, hbelow⟩ | ⟨-, hzero, hwhy⟩ | ⟨-, hsame⟩
  · exact .inl ⟨hzero, hrx⟩
  · exact .inr (.inl ⟨hi, harmed, hcnt, hbelow⟩)
  · exact .inr (.inr ⟨hzero, hwhy⟩)
  · exact absurd hsame hne

end Writers

/-- Settles O37, item by item. -/
theorem itemsAreWrittenOnlyAsListed : Obligations.ItemsAreWrittenOnlyAsListed := by
  unfold Obligations.ItemsAreWrittenOnlyAsListed
  intro i s t ht
  obtain rfl := exec_next ht
  have h := effectOf_moves i s.toBlock
  exact ⟨h.crc_writers, h.syncState_writers, h.isOpen_writers, h.canWrite_writers, h.reqState_writers,
    h.txFrame_writers, h.rxBuf_writers, h.idleArmed_writers, h.idleCnt_writers⟩

/-! ### What is transmitted -/

/-- `raise` transmits nothing (R210). -/
theorem tx_not_mem_raise (f : List Byte) (o : ReqOutcome) (info : Info) (b : Block) :
    .tx f ∉ (raise o info b).2 := by
  rcases raise_cases o info b with ⟨-, e⟩ | ⟨-, e⟩ <;> simp [e]

/-- An idle fire transmits nothing (R162). -/
theorem tx_not_mem_idleFire (f : List Byte) (b : Block) : .tx f ∉ (idleFire b).2 := by
  rcases idleFire_cases b with e | ⟨-, e⟩ | ⟨r, -, -, e⟩ | ⟨r, -, -, e⟩ <;> rw [e]
  · simp
  · exact tx_not_mem_raise f _ _ _
  · exact tx_not_mem_raise f _ _ _
  · rcases deliver_cases r b with ⟨-, e⟩ | ⟨-, e⟩ <;> rw [e]
    · simp
    · split_ifs <;> simp

/-- Only a started write transmits, and what it transmits is the frame register of an armed request (R114). -/
theorem Moves.of_tx {b c : Block} {i : Instr} {ev : List Event} {f : List Byte} (h : Moves b i c ev)
    (hf : .tx f ∈ ev) : i = .writeStart ∧ b.reqState = .armed ∧ f = b.txFrame := by
  cases h with
  | writeStart harmed => exact ⟨rfl, harmed, by simpa using hf⟩
  | fire => exact absurd hf (tx_not_mem_idleFire f b)
  | rxFail | linkDown | timeout | abort => exact absurd hf (tx_not_mem_raise f _ _ _)
  | _ => exact absurd hf List.not_mem_nil

/-- An outstanding request's frame is one the encoder built (R16, R22). -/
theorem Block.Inv.pending_frameBuilt {b : Block} (h : b.Inv) (hpending : b.reqState ≠ .idle) :
    ∃ node port st payload, payload.length ≤ 255 ∧ b.txFrame = buildFrame node port (syncValue st) payload := by
  rcases h.frameBuilt with hnil | hbuilt
  · have hlen := h.pendingFrame hpending
    simp [hnil] at hlen
  · exact hbuilt

/-- The sequencer's three values (R20, R112). -/
theorem syncValue_mem (st : SyncState) : syncValue st ∈ [(0x02 : Byte), 0x01, 0x00] := by cases st <;> simp [syncValue]

/-- Settles O44: only `WRITE_START` transmits, and by the invariant the frame it sends is a built one, which parses
back. -/
theorem transmittedFramesAreValid : Obligations.TransmittedFramesAreValid := by
  unfold Obligations.TransmittedFramesAreValid
  intro i s t f hs ht hev
  obtain rfl := exec_next ht
  have htx : (effectOf i s.toBlock).events = [.tx f] := List.append_cancel_left hev
  obtain ⟨-, harmed, rfl⟩ := (effectOf_moves i s.toBlock).of_tx (f := f) (by simp [htx])
  obtain ⟨node, port, st, payload, hlen, hbuilt⟩ := Block.Inv.pending_frameBuilt hs (by simp [harmed])
  rw [hbuilt]
  exact ⟨node, port, syncValue st, payload, hlen, syncValue_mem st, rfl, by simp, by simp; omega, _,
    tryParse_buildFrame node port (syncValue st) hlen, rfl⟩

/-! ### Reset and the closed, writable link -/

/-- Settles O1: the values of `Block.reset` are R30's. -/
theorem resetStateIsAsListed : Obligations.ResetStateIsAsListed := rfl

/-- A request that times out on a link never opened, and the next request (R184, R187). -/
def writableWhileClosedRun : List Instr := [.issue 0xFA 0xFF [0x00], .reqTimeout, .issue 0xFA 0xFF [0x00]]

/-- Settles O45: after a timeout the link is writable though it was never opened, and the next request cannot be
written. -/
theorem writableWhileClosedIsReachable : Obligations.WritableWhileClosedIsReachable :=
  ⟨writableWhileClosedRun, _, _, rfl, rfl, rfl, rfl, rfl, rfl⟩

end Sys2Proof.Machine

namespace Sys2Proof.Machine

/-! ### The queue: what a step takes off it -/

/-- What is left of a run of bytes goes back on the queue unless it is empty. -/
theorem pushCode_eq (left : List Byte) (rest : List Invocation) :
    pushCode left rest = if left = [] then rest else .code left :: rest := by
  cases left <;> rfl

/-- Every operation but `IDLE_FIRE` may be invoked from outside (R80, R83). -/
theorem fromOutside_of_ne {i : Instr} (h : i ≠ .idleFire) (rest : List Invocation) :
    fromOutside i rest = .run i rest := by simp [fromOutside, isInternal, h]

/-- A run of bytes that is not empty is read at its first operation. -/
theorem fetch_code {bytes : List Byte} (h : bytes ≠ []) (rest : List Invocation) :
    fetch (.code bytes :: rest) = fetchCode bytes rest := by simp [fetch, h]

/-- Bytes that decode are not empty. -/
theorem ne_nil_of_decode_ok {bytes left : List Byte} {i : Instr} (h : decode bytes = .ok (i, left)) : bytes ≠ [] := by
  rintro rfl
  cases h

/-- The operation a run of bytes starts with is fetched, and what is left of the run stays queued (R80). -/
theorem fetch_code_of_decode_ok {bytes left : List Byte} {i : Instr} (hdec : decode bytes = .ok (i, left))
    (hext : i ≠ .idleFire) (rest : List Invocation) :
    fetch (.code bytes :: rest) = .run i (if left = [] then rest else .code left :: rest) := by
  rw [fetch_code (ne_nil_of_decode_ok hdec), fetchCode, hdec, ← pushCode_eq]
  exact fromOutside_of_ne hext _

/-- Bytes that are neither an operation nor a reserved op code are no operation at all (log 3). -/
theorem fetch_code_of_decode_error {bytes : List Byte} {e : DecodeError} (hne : bytes ≠ [])
    (hdec : decode bytes = .error e) (hres : ∀ code, e ≠ .reservedOp code) (rest : List Invocation) :
    fetch (.code bytes :: rest) = .malformed e := by
  rw [fetch_code hne, fetchCode, hdec]
  cases e with
  | reservedOp code => exact absurd rfl (hres code)
  | _ => rfl

/-- A typed call is fetched whole (log 2). -/
theorem fetch_call {i : Instr} (hext : i ≠ .idleFire) (rest : List Invocation) :
    fetch (.call i :: rest) = .run i rest := fromOutside_of_ne hext rest

/-- A step runs the operation it fetches, with the queue moved past it (R50). -/
theorem step_of_fetch_run {s : State} {i : Instr} {rest : List Invocation} (h : fetch s.inputs = .run i rest) :
    step s = exec i { s with inputs := rest } := by rw [step, h]

/-- A step on bytes that are no operation is refused with the reason (log 3). -/
theorem step_of_fetch_malformed {s : State} {e : DecodeError} (h : fetch s.inputs = .malformed e) :
    step s = .refused (.malformedCode e) := by rw [step, h]

/-- Settles O3: each clause is what `fetch` finds at the head of the queue. -/
theorem stepRunsTheQueuedOperation : Obligations.StepRunsTheQueuedOperation := by
  unfold Obligations.StepRunsTheQueuedOperation
  refine ⟨?code, ?call, ?malformed⟩
  case code =>
    intro s bytes left rest i hq hdec hext
    exact step_of_fetch_run (hq ▸ fetch_code_of_decode_ok hdec hext rest)
  case call =>
    intro s rest i hq hext
    exact step_of_fetch_run (hq ▸ fetch_call hext rest)
  case malformed =>
    intro s bytes rest e hq hne hdec hres
    exact step_of_fetch_malformed (hq ▸ fetch_code_of_decode_error hne hdec hres rest)

/-! ### Operations done twice -/

/-- On the block an operation has left, doing it again writes nothing new and emits nothing (R51). -/
def IdempotentOp (i : Instr) : Prop :=
  ∀ b : Block, (effectOf i (effectOf i b).block).block = (effectOf i b).block ∧
    (effectOf i (effectOf i b).block).events = []

/-- With no request outstanding a link-down event emits nothing (R181, R182). -/
theorem linkDown_events_of_idle (cause : LinkCause) {b : Block} (h : b.reqState = .idle) :
    (linkDown cause b).events = [] := by
  have hdown : (rxClear { b with isOpen := false, canWrite := false }).reqState = .idle := h
  simp [linkDown, raiseAnswering, raise_idle _ _ hdown]

/-- A link-down event ends the request it finds, so a second one has none to resolve (R181, R182). -/
theorem linkDown_twice (cause : LinkCause) (b : Block) :
    (linkDown cause (linkDown cause b).block).block = (linkDown cause b).block ∧
      (linkDown cause (linkDown cause b).block).events = [] :=
  ⟨by simp [rxClear], linkDown_events_of_idle cause (by simp)⟩

/-- A second drain finds the write gate as the first left it, on an open and on a closed link (R183). -/
theorem idempotentOp_linkDrain : IdempotentOp .linkDrain := by
  intro b
  cases hopen : b.isOpen <;> simp [effectOf, hopen]

/-- The seven operations R51 lists: the two link-down events and the drain have a reason of their own, the other four
write fixed values. -/
theorem idempotentOp_of_mem {v : Word16} {i : Instr}
    (h : i ∈ ([.linkOpen, .linkClose, .linkError, .linkDrain, .rxFlush, .crcLoad v, .reset] : List Instr)) :
    IdempotentOp i := by
  simp only [List.mem_cons, List.not_mem_nil, or_false] at h
  rcases h with rfl | rfl | rfl | rfl | rfl | rfl | rfl
  · exact fun _ => ⟨rfl, rfl⟩
  · exact linkDown_twice .closed
  · exact linkDown_twice .error
  · exact idempotentOp_linkDrain
  · exact fun _ => ⟨rfl, rfl⟩
  · exact fun _ => ⟨rfl, rfl⟩
  · exact fun _ => ⟨rfl, rfl⟩

/-- Settles O41: the second execution commits an effect that writes and emits nothing new. -/
theorem repeatedOperationsAreIdempotent : Obligations.RepeatedOperationsAreIdempotent := by
  unfold Obligations.RepeatedOperationsAreIdempotent
  intro v i hi s t ht
  obtain rfl := exec_next ht
  obtain ⟨hblock, hevents⟩ := idempotentOp_of_mem hi s.toBlock
  exact ⟨_, exec_eq i _, hblock, by simp [hevents]⟩

end Sys2Proof.Machine

namespace Sys2Proof.Laws

/-! ### The words of an instruction read back -/

/-- The words of every instruction that has any decode to it: one round trip per row of the opcode table (R80, R75). -/
theorem decode_encode (i : Instr) : RoundTrip.Statement i :=
  match i with
  | .reset => RoundTrip.reset
  | .crcLoad v => RoundTrip.crcLoad v
  | .crcBit d => RoundTrip.crcBit d
  | .crcByte b => RoundTrip.crcByte b
  | .crcRead => RoundTrip.crcRead
  | .checksum bytes seed => RoundTrip.checksum bytes seed
  | .build node port sync payload => RoundTrip.build node port sync payload
  | .issue node port payload => RoundTrip.issue node port payload
  | .writeStart => RoundTrip.writeStart
  | .tryParse buffer => RoundTrip.tryParse buffer
  | .rxData bs => RoundTrip.rxData bs
  | .rxFlush => RoundTrip.rxFlush
  | .statusDecode b => RoundTrip.statusDecode b
  | .tick => RoundTrip.tick
  | .idleFire => RoundTrip.idleFire
  | .linkOpen => RoundTrip.linkOpen
  | .linkClose => RoundTrip.linkClose
  | .linkError => RoundTrip.linkError
  | .linkDrain => RoundTrip.linkDrain
  | .reqTimeout => RoundTrip.reqTimeout
  | .reqAbort reason => RoundTrip.reqAbort reason
  | .getProductId node port ops => RoundTrip.getProductId node port ops
  | .getField node port ops => RoundTrip.getField node port ops
  | .setField node port ops => RoundTrip.setField node port ops
  | .machineStatus node port ops => RoundTrip.machineStatus node port ops
  | .issueCommand node port ops => RoundTrip.issueCommand node port ops
  | .getVersion node port ops => RoundTrip.getVersion node port ops
  | .getSecurity node port ops => RoundTrip.getSecurity node port ops
  | .deliveryStatus node port ops => RoundTrip.deliveryStatus node port ops
  | .startPauseDelivery node port ops => RoundTrip.startPauseDelivery node port ops
  | .getTransaction node port ops => RoundTrip.getTransaction node port ops
  | .deleteTransaction node port ops => RoundTrip.deleteTransaction node port ops
  | .getFieldParams node port ops => RoundTrip.getFieldParams node port ops
  | .setBaudRate node port ops => RoundTrip.setBaudRate node port ops
  | .checkLastRequest node port ops => RoundTrip.checkLastRequest node port ops
  | .abortRequest node port ops => RoundTrip.abortRequest node port ops
  | .getFieldParams2 node port ops => RoundTrip.getFieldParams2 node port ops

/-- Settles O51: the round trip of each instruction. -/
theorem decodeReadsEveryEncoding : Obligations.DecodeReadsEveryEncoding :=
  fun i rest hwf => decode_encode i hwf rest

/-- A code 15 to 1F selects no operation (R83). -/
theorem decode_reserved {code : Byte} (hlo : 0x15 ≤ code.toNat) (hhi : code.toNat ≤ 0x1F) (bytes : List Byte) :
    decode (code :: bytes) = .error (.reservedOp code) := by
  rw [decode, decodeOperation]
  split
  case h_22 => exact if_pos (by omega)
  all_goals omega

/-- Settles O53: the decoder run on each of the seventeen words. -/
theorem programWordsDecode : Obligations.ProgramWordsDecode := rfl

end Sys2Proof.Laws

namespace Sys2Proof.Machine

/-! ### Requests by their meter opcode -/

/-- The row an opcode selects is the request whose payload starts with that opcode (R75). -/
theorem requestOf_meterRequest {opcode node port : Byte} {ops : List Byte} {i : Instr}
    (h : meterRequest opcode node port ops = some i) : requestOf i = some (node, port, opcode :: ops) := by
  have listed {c : Byte} (hc : opcode.toNat = c.toNat) :
      some (node, port, c :: ops) = some (node, port, opcode :: ops) := by rw [BitVec.eq_of_toNat_eq hc]
  unfold meterRequest at h
  split at h
  case h_17 => cases h
  all_goals
    cases h
    exact listed ‹_›

/-- However its payload starts, the instruction of an `ISSUE` carries the request of the `ISSUE` (R75, R76). -/
theorem requestOf_requestInstr (node port : Byte) (payload : List Byte) :
    requestOf (requestInstr node port payload) = some (node, port, payload) := by
  cases payload with
  | nil => rfl
  | cons opcode ops =>
    cases hrow : meterRequest opcode node port ops with
    | none => simp [requestInstr, hrow, requestOf]
    | some i => simpa [requestInstr, hrow] using requestOf_meterRequest hrow

/-- An instruction that carries a request commits the effect of its `ISSUE` (R75, R113). -/
theorem exec_request {i : Instr} {node port : Byte} {payload : List Byte}
    (h : requestOf i = some (node, port, payload)) (s : State) :
    exec i s = .next (s.commit (issue node port payload s.toBlock)) := by
  rw [exec_eq, effectOf_request h]

/-- Settles O52: the instruction its words decode to carries the request of the `ISSUE`. -/
theorem issueWordsRunIssue : Obligations.IssueWordsRunIssue := by
  intro node port payload rest hlen
  refine ⟨requestInstr node port payload, ?words, fun s => ?effect⟩
  case words => exact Laws.decode_encodeIssue node port rest (decide_eq_true hlen)
  case effect => rw [exec_request (requestOf_requestInstr node port payload), exec_request rfl]

section Issue

variable {b : Block} {node port : Byte} {payload : List Byte}

/-- A request outstanding keeps the next one out (R113). -/
theorem issue_of_pending (h : b.reqState ≠ .idle) : issue node port payload b = .answer b .busy := by
  obtain ⟨-, he⟩ | ⟨hidle, -⟩ | ⟨hidle, -⟩ := issue_cases node port payload b
  · exact he
  · exact absurd hidle h
  · exact absurd hidle h

/-- A payload over 255 bytes is refused for its length (R113). -/
theorem issue_of_long (h : b.reqState = .idle) (hlen : 255 < payload.length) :
    issue node port payload b = .answer b .badLength := by
  obtain ⟨hbusy, -⟩ | ⟨-, -, he⟩ | ⟨-, hfits, -⟩ := issue_cases node port payload b
  · exact absurd h hbusy
  · exact he
  · omega

/-- An accepted `ISSUE` stores the frame, moves the sequencer and arms the request (R113). -/
theorem issue_of_fits (h : b.reqState = .idle) (hlen : payload.length ≤ 255) :
    issue node port payload b =
      { block := { b with
          txFrame := buildFrame node port (syncValue b.syncState) payload
          syncState := nextSync b.syncState
          reqState := .armed }
        result := .accepted
        events := [] } := by
  obtain ⟨hbusy, -⟩ | ⟨-, hlong, -⟩ | ⟨-, -, he⟩ := issue_cases node port payload b
  · exact absurd h hbusy
  · omega
  · exact he

end Issue

/-- Settles O18: each row carries the request of its opcode, and so does one of the three things an `ISSUE` can do. -/
theorem meterRequestsIssueTheirOpcode : Obligations.MeterRequestsIssueTheirOpcode := by
  unfold Obligations.MeterRequestsIssueTheirOpcode
  intro node port ops s i opcode hmem
  have hreq : requestOf i = some (node, port, opcode :: ops) := by fin_cases hmem <;> rfl
  rw [exec_request hreq]
  refine ⟨?accepted, ?tooLong, ?busy⟩
  case accepted =>
    intro hidle hlen
    have hfits : (opcode :: ops).length ≤ 255 := Nat.succ_le_succ hlen
    rw [issue_of_fits hidle hfits]
    simp [State.commit, State.answered]
  case tooLong =>
    intro hidle hlen
    have hlong : 255 < (opcode :: ops).length := Nat.succ_lt_succ hlen
    rw [issue_of_long hidle hlong, State.commit_answer]
  case busy =>
    intro hbusy
    rw [issue_of_pending hbusy, State.commit_answer]

/-! ### Invocations that select no operation -/

/-- A reserved op code is turned away and the queue moves past its one byte (R83, log 4). -/
theorem fetch_code_reserved {code : Byte} (hlo : 0x15 ≤ code.toNat) (hhi : code.toNat ≤ 0x1F) (bytes : List Byte)
    (rest : List Invocation) :
    fetch (.code (code :: bytes) :: rest) = .turnedAway (if bytes = [] then rest else .code bytes :: rest) := by
  rw [fetch_code (List.cons_ne_nil _ _), fetchCode, Laws.decode_reserved hlo hhi, ← pushCode_eq]
  rfl

/-- `IDLE_FIRE` written as a byte is turned away likewise (R83, log 4). -/
theorem fetch_code_idleFire (bytes : List Byte) (rest : List Invocation) :
    fetch (.code (0x0E :: bytes) :: rest) = .turnedAway (if bytes = [] then rest else .code bytes :: rest) := by
  rw [← pushCode_eq]
  rfl

/-- A step on what is turned away answers `REFUSED` and writes no item of the block (R83). -/
theorem step_of_fetch_turnedAway {s : State} {rest : List Invocation} (h : fetch s.inputs = .turnedAway rest) :
    step s = .next ({ s with inputs := rest }.answered .refused) := by
  rw [step, h, ← State.commit_answer]
  rfl

/-- Settles O4: both forms are turned away at the fetch. -/
theorem reservedAndInternalCodesAreRefused : Obligations.ReservedAndInternalCodesAreRefused := by
  unfold Obligations.ReservedAndInternalCodesAreRefused
  refine ⟨?code, ?call⟩
  case code =>
    intro s code bytes rest hq hcode
    obtain ⟨hlo, hhi⟩ | hfire := hcode
    · exact step_of_fetch_turnedAway (hq ▸ fetch_code_reserved hlo hhi bytes rest)
    · obtain rfl : code = 0x0E := BitVec.eq_of_toNat_eq hfire
      exact step_of_fetch_turnedAway (hq ▸ fetch_code_idleFire bytes rest)
  case call =>
    intro s rest hq
    exact step_of_fetch_turnedAway (hq ▸ rfl)

end Sys2Proof.Machine

namespace Sys2Proof.Machine

/-! ### The CRC register -/

/-- An `OK` that writes the CRC register alone (R90, R91, R92). -/
theorem State.commit_answer_crc (s : State) (v : Word16) :
    s.commit (.answer { s.toBlock with crc := v } .ok) = { s.answered .ok with crc := v } := by
  simp [State.commit, State.answered]

/-- `CRC_BIT` answers `OK` and writes the register alone (R91). -/
theorem exec_crcBit (d : Bool) (s : State) :
    exec (.crcBit d) s = .next { s.answered .ok with crc := bitStep s.crc d } := by
  rw [exec_eq, effectOf, State.commit_answer_crc]

/-- `CRC_BYTE` answers `OK` and writes the register alone (R92). -/
theorem exec_crcByte (b : Byte) (s : State) :
    exec (.crcByte b) s = .next { s.answered .ok with crc := byteStep s.crc b } := by
  rw [exec_eq, effectOf, State.commit_answer_crc]

/-- A run of one CRC operation over a list completes, and folds that operation's step over the register (R92, R94). -/
theorem execAll_map_crc {α : Type} {op : α → Instr} {f : Word16 → α → Word16}
    (hop : ∀ x b, (effectOf (op x) b).block.crc = f b.crc x) (xs : List α) (s : State) :
    ∃ t, execAll (xs.map op) s = some t ∧ t.crc = xs.foldl f s.crc := by
  induction xs generalizing s with
  | nil => exact ⟨s, rfl, rfl⟩
  | cons x xs ih =>
    obtain ⟨t, hrun, hcrc⟩ := ih (s.commit (effectOf (op x) s.toBlock))
    refine ⟨t, by simpa using hrun, ?_⟩
    rw [hcrc, State.commit_toBlock, hop, List.foldl_cons]

/-- Settles O7: the effect of `CRC_LOAD` is an `OK` that writes the register. -/
theorem crcLoadSetsTheRegister : Obligations.CrcLoadSetsTheRegister := by
  unfold Obligations.CrcLoadSetsTheRegister
  intro v s
  rw [exec_eq, effectOf, State.commit_answer_crc]

/-- Settles O8: the effect of `CRC_READ` is an answer alone. -/
theorem crcReadAnswersTheRegister : Obligations.CrcReadAnswersTheRegister := by
  unfold Obligations.CrcReadAnswersTheRegister
  intro s
  rw [exec_eq, effectOf, State.commit_answer]

/-- Settles O9: for either data bit `bitStep` injects the bit as the rule writes it. -/
theorem crcBitShiftsInjectsThenXors : Obligations.CrcBitShiftsInjectsThenXors := by
  unfold Obligations.CrcBitShiftsInjectsThenXors
  intro d s
  rw [exec_crcBit]
  cases d <;> rfl

/-- Settles O10: `byteStep` is the fold of `bitStep` that the run of eight bits makes. -/
theorem crcByteIsEightCrcBits : Obligations.CrcByteIsEightCrcBits := by
  unfold Obligations.CrcByteIsEightCrcBits
  intro b s
  obtain ⟨t, hrun, hcrc⟩ := execAll_map_crc (op := fun i => .crcBit (b.getLsbD i))
    (f := fun a i => bitStep a (b.getLsbD i)) (fun _ _ => rfl) [7, 6, 5, 4, 3, 2, 1, 0] s
  refine ⟨t, hrun, ?_⟩
  rw [exec_crcByte, hcrc, byteStep]

/-- Settles O12: `checksum` is the fold of `byteStep` that the run makes from the seed loaded first. -/
theorem checksumIsTheRegisterSequence : Obligations.ChecksumIsTheRegisterSequence := by
  unfold Obligations.ChecksumIsTheRegisterSequence
  intro bytes seed s
  obtain ⟨t, hrun, hcrc⟩ := execAll_map_crc (op := .crcByte) (f := byteStep) (fun _ _ => rfl) bytes
    (s.commit (effectOf (.crcLoad seed) s.toBlock))
  have hsum : t.crc = checksum bytes seed := hcrc
  refine ⟨t, by simpa using hrun, ?_, hsum⟩
  rw [exec_eq, effectOf, State.commit_answer, hsum]

/-! ### Linearity, and bytes no feedback touches -/

/-- What a change of the byte alone changes in the register: the same bits of its low half (R98). -/
theorem byteStep_xor_byte (x : Word16) (b e : Byte) :
    byteStep x (b ^^^ e) = byteStep x b ^^^ e.setWidth 16 := by
  have hzero : byteStep 0x0000 e = e.setWidth 16 := by
    simp [byteStep_of_low]
  calc byteStep x (b ^^^ e) = byteStep (x ^^^ 0x0000) (b ^^^ e) := by simp
    _ = byteStep x b ^^^ e.setWidth 16 := by rw [byteStep_xor, hzero]

/-- What a change of the register's low half changes after one more byte: the same bits of its high half (R98). -/
theorem byteStep_xor_low (x : Word16) (e c : Byte) :
    byteStep (x ^^^ e.setWidth 16) c = byteStep x c ^^^ (e.setWidth 16 <<< 8) := by
  have hlow : byteStep (e.setWidth 16) 0x00 = e.setWidth 16 <<< 8 := by
    rw [byteStep_of_low _ _ (by intro i hi; simp [hi])]
    simp
  calc byteStep (x ^^^ e.setWidth 16) c = byteStep (x ^^^ e.setWidth 16) (c ^^^ 0x00) := by simp
    _ = byteStep x c ^^^ (e.setWidth 16 <<< 8) := by rw [byteStep_xor, hlow]

/-- A register is its high half beside its low half. -/
theorem xor_halves (x : Word16) : ((x >>> 8) <<< 8) ^^^ (x.setWidth 8).setWidth 16 = x := by
  apply BitVec.eq_of_getLsbD_eq
  intro i hi
  by_cases h : i < 8
  · simp [h, hi]
  · simp [h, hi, Nat.add_sub_cancel' (Nat.le_of_not_lt h)]

/-- Shifted up by a byte, a register keeps its low half alone, which no byte beside it overlaps. -/
theorem shiftLeft_or_byte (x : Word16) (b : Byte) :
    (x <<< 8) ||| b.setWidth 16 = ((x.setWidth 8).setWidth 16 <<< 8) ^^^ b.setWidth 16 := by
  apply BitVec.eq_of_getLsbD_eq
  intro i hi
  by_cases h : i < 8
  · simp [h, hi]
  · simp [h, hi, show i - 8 < 8 by omega, BitVec.getLsbD_of_ge b i (Nat.le_of_not_lt h),
      BitVec.getLsbD_eq_getElem (show i - 8 < 16 by omega)]

/-- A byte step on the two halves of the register: the high one is fed back, the low one and the byte are shifted in
(R99). -/
theorem byteStep_split (x : Word16) (b : Byte) :
    byteStep x b = ((x <<< 8) ||| b.setWidth 16) ^^^ byteStep ((x >>> 8) <<< 8) 0x00 := by
  calc byteStep x b
      = byteStep (((x >>> 8) <<< 8) ^^^ (x.setWidth 8).setWidth 16) (0x00 ^^^ b) := by
        rw [xor_halves]; simp
    _ = byteStep ((x >>> 8) <<< 8) 0x00 ^^^ b.setWidth 16 ^^^ ((x.setWidth 8).setWidth 16 <<< 8) := by
        rw [byteStep_xor_low, byteStep_xor_byte]
    _ = ((x <<< 8) ||| b.setWidth 16) ^^^ byteStep ((x >>> 8) <<< 8) 0x00 := by
        rw [shiftLeft_or_byte]; ac_rfl

/-- Settles O11: the split of a byte step, its table entry being the step on the high half. -/
theorem crcByteTableForm : Obligations.CrcByteTableForm := by
  unfold Obligations.CrcByteTableForm
  intro b s
  refine ⟨_, exec_crcByte 0x00 _, ?_⟩
  rw [exec_crcByte, byteStep_split s.crc b]

/-- Zero bytes leave a zero register (R98). -/
theorem checksum_replicate_zero (n : Nat) : checksum (List.replicate n 0x00) 0x0000 = 0x0000 := by
  induction n with
  | zero => rfl
  | succ n ih => rw [List.replicate_succ, checksum_cons]; exact ih

/-- A single bit of a byte stands at the same place in the word. -/
theorem setWidth_one_shiftLeft {k : Nat} (hk : k < 8) :
    ((0x01 : Byte) <<< k).setWidth 16 = (0x0001 : Word16) <<< k := by
  interval_cases k <;> rfl

/-- Settles O14: linearity is the model's own law; a flipped bit is an XOR, which one byte step takes to the low half
of the register and the next to the high half. -/
theorem checksumIsLinear : Obligations.ChecksumIsLinear := by
  unfold Obligations.ChecksumIsLinear
  refine ⟨checksum_xor, checksum_replicate_zero, ?last, ?lastButOne⟩
  case last =>
    intro m b k seed hk
    simp only [checksum_append, checksum_cons, checksum_nil, byteStep_xor_byte, setWidth_one_shiftLeft hk]
  case lastButOne =>
    intro m b c k seed hk
    simp only [checksum_append, checksum_cons, checksum_nil, byteStep_xor_byte, byteStep_xor_low]
    rw [setWidth_one_shiftLeft hk, Nat.add_comm 8 k, BitVec.shiftLeft_add]

/-! ### The register as a polynomial over GF(2) -/

section Remainder

open Polynomial

/-- The polynomial whose coefficients are the lowest `n` bits (R97). -/
noncomputable def bitsPoly (n : Nat) (bit : Nat → Bool) : (ZMod 2)[X] :=
  ∑ i ∈ Finset.range n, if bit i then X ^ i else 0

/-- The polynomial `P` of R97. -/
noncomputable def crcPoly : (ZMod 2)[X] := X ^ 16 + X ^ 12 + X ^ 5 + 1

/-- The polynomial of a byte sequence fed on after `acc`, byte 0 highest (R97). -/
noncomputable def bytesPoly (m : List Byte) (acc : (ZMod 2)[X]) : (ZMod 2)[X] :=
  m.foldl (fun acc b => acc * X ^ 8 + bitsPoly 8 b.getLsbD) acc

@[simp] theorem bitsPoly_zero (bit : Nat → Bool) : bitsPoly 0 bit = 0 := rfl

/-- One more bit on top. -/
theorem bitsPoly_succ (n : Nat) (bit : Nat → Bool) :
    bitsPoly (n + 1) bit = bitsPoly n bit + (if bit n then 1 else 0) * X ^ n := by
  rw [bitsPoly, Finset.sum_range_succ, boole_mul, bitsPoly]

/-- XOR of the bits is addition over GF(2). -/
theorem bitsPoly_xor (n : Nat) (a b : Nat → Bool) :
    bitsPoly n (fun i => a i ^^ b i) = bitsPoly n a + bitsPoly n b := by
  simp only [bitsPoly, ← Finset.sum_add_distrib]
  refine Finset.sum_congr rfl fun i _ => ?_
  by_cases ha : a i <;> by_cases hb : b i <;> simp [ha, hb, CharTwo.add_self_eq_zero]

/-- Shifting left and injecting a bit is multiplying by `x` and adding the bit. -/
theorem bitsPoly_shift_in (n : Nat) (d : Bool) (a : Nat → Bool) :
    bitsPoly (n + 1) (fun i => if i = 0 then d else a (i - 1)) = X * bitsPoly n a + if d then 1 else 0 := by
  simp [bitsPoly, Finset.sum_range_succ', Finset.mul_sum, pow_succ']

/-- The feedback word, XORed in or not (R91). -/
theorem bitsPoly_feedback (c : Bool) :
    bitsPoly 16 (fun i => c && (0x1021 : Word16).getLsbD i) = if c then X ^ 12 + X ^ 5 + 1 else 0 := by
  cases c
  · simp [bitsPoly]
  · simp [bitsPoly, Finset.sum_range_succ]
    ring

/-- A bit step multiplies by `x`, adds the data bit, and adds `P` when bit 15 shifts out set (R91, R97). -/
theorem bitsPoly_bitStep (acc : Word16) (d : Bool) :
    bitsPoly 16 (bitStep acc d).getLsbD =
      X * bitsPoly 16 acc.getLsbD + (if d then 1 else 0) + if acc.getLsbD 15 then crcPoly else 0 := by
  have hbits : bitsPoly 16 (bitStep acc d).getLsbD = bitsPoly 16 (fun i =>
      (if i = 0 then d else acc.getLsbD (i - 1)) ^^ (acc.getLsbD 15 && (0x1021 : Word16).getLsbD i)) :=
    Finset.sum_congr rfl fun i hi => by rw [bitStep_getLsbD _ _ (Finset.mem_range.mp hi)]
  rw [hbits, bitsPoly_xor, bitsPoly_shift_in, bitsPoly_feedback, bitsPoly_succ 15]
  cases acc.getLsbD 15
  · simp
  · have hcancel : (X ^ 16 + X ^ 16 : (ZMod 2)[X]) = 0 := CharTwo.add_self_eq_zero _
    simp only [if_true, crcPoly]
    linear_combination -hcancel

/-- Modulo `P` a bit step multiplies by `x` and adds the data bit. -/
theorem mk_bitStep (acc : Word16) (d : Bool) :
    AdjoinRoot.mk crcPoly (bitsPoly 16 (bitStep acc d).getLsbD) =
      AdjoinRoot.mk crcPoly (X * bitsPoly 16 acc.getLsbD + if d then 1 else 0) := by
  rw [bitsPoly_bitStep, map_add, apply_ite (AdjoinRoot.mk crcPoly) _ crcPoly]
  simp

/-- Modulo `P` a byte step multiplies by `x^8` and adds the byte. -/
theorem mk_byteStep (acc : Word16) (b : Byte) :
    AdjoinRoot.mk crcPoly (bitsPoly 16 (byteStep acc b).getLsbD) =
      AdjoinRoot.mk crcPoly (bitsPoly 16 acc.getLsbD * X ^ 8 + bitsPoly 8 b.getLsbD) := by
  simp only [byteStep, List.foldl_cons, List.foldl_nil, mk_bitStep, map_add, map_mul]
  generalize bitsPoly 16 acc.getLsbD = p
  simp only [bitsPoly_succ, bitsPoly_zero, map_add, map_mul, map_pow, map_zero]
  ring

/-- Modulo `P` the checksum is the seed's polynomial with the bytes fed on. -/
theorem mk_checksum (m : List Byte) {seed : Word16} {acc : (ZMod 2)[X]}
    (h : AdjoinRoot.mk crcPoly (bitsPoly 16 seed.getLsbD) = AdjoinRoot.mk crcPoly acc) :
    AdjoinRoot.mk crcPoly (bitsPoly 16 (checksum m seed).getLsbD) = AdjoinRoot.mk crcPoly (bytesPoly m acc) := by
  induction m generalizing seed acc with
  | nil => exact h
  | cons b m ih =>
    apply ih
    rw [mk_byteStep, map_add, map_mul, h, ← map_mul, ← map_add]

/-- What was fed before stands above the bytes that follow. -/
theorem bytesPoly_eq (m : List Byte) (acc : (ZMod 2)[X]) :
    bytesPoly m acc = acc * X ^ (8 * m.length) + bytesPoly m 0 := by
  induction m generalizing acc with
  | nil => simp [bytesPoly]
  | cons b m ih =>
    have hcons (a : (ZMod 2)[X]) : bytesPoly (b :: m) a = bytesPoly m (a * X ^ 8 + bitsPoly 8 b.getLsbD) := rfl
    rw [hcons, hcons, ih, ih (0 * X ^ 8 + _), List.length_cons]
    ring

/-- Polynomials of `n` bits are of degree below `n`. -/
theorem degree_bitsPoly_lt (n : Nat) (bit : Nat → Bool) : (bitsPoly n bit).degree < n := by
  refine mem_degreeLT.mp (Submodule.sum_mem _ fun i hi => mem_degreeLT.mpr ?_)
  split_ifs
  · simpa using Finset.mem_range.mp hi
  · simp [bot_lt_iff_ne_bot]

theorem degree_crcPoly : crcPoly.degree = 16 := by
  unfold crcPoly
  compute_degree!

theorem monic_crcPoly : crcPoly.Monic := by
  unfold crcPoly
  monicity!

/-- Settles O13: the two sides agree modulo `P`, and the checksum's degree is below that of `P`. -/
theorem checksumIsThePolynomialRemainder : Obligations.ChecksumIsThePolynomialRemainder := by
  unfold Obligations.ChecksumIsThePolynomialRemainder
  intro P poly m seed
  change bitsPoly 16 (checksum m seed).getLsbD =
    (bitsPoly 16 seed.getLsbD * X ^ (8 * m.length) + bytesPoly m 0) %ₘ crcPoly
  have hdvd := AdjoinRoot.mk_eq_mk.mp (mk_checksum m (seed := seed) rfl)
  have hdeg : (bitsPoly 16 (checksum m seed).getLsbD).degree < crcPoly.degree := by
    rw [degree_crcPoly]
    exact degree_bitsPoly_lt 16 _
  rw [← bytesPoly_eq, ← modByMonic_eq_of_dvd_sub monic_crcPoly hdvd, (modByMonic_eq_self_iff monic_crcPoly).mpr hdeg]

end Remainder

end Sys2Proof.Machine

namespace Sys2Proof.Machine

/-! ### The bytes of a built frame -/

/-- `lo8` is truncation (R6). -/
theorem lo8_eq_setWidth (v : Word16) : lo8 v = v.setWidth 8 := by
  rw [lo8, BitVec.setWidth_eq_extractLsb' (by decide)]

/-- `hi8` is the truncation of the word shifted down by a byte (R6). -/
theorem hi8_eq_setWidth (v : Word16) : hi8 v = (v >>> 8).setWidth 8 := rfl

section BuiltFrame

variable (node port sync : Byte) (payload : List Byte)

@[simp] theorem frameBody_length : (frameBody node port sync payload).length = 4 + payload.length := by
  simp [frameBody]
  omega

/-- A built frame as the two head bytes, the covered bytes and their checksum (R60, R63). -/
theorem buildFrame_eq_append :
    buildFrame node port sync payload = 0x7E :: 0x7E :: (frameBody node port sync payload ++
      [lo8 (checksum (frameBody node port sync payload) 0x7E7E),
        hi8 (checksum (frameBody node port sync payload) 0x7E7E)]) := rfl

/-- Byte 4 of a built frame is its sync byte (R60). -/
theorem buildFrame_getElem?_sync : (buildFrame node port sync payload)[4]? = some sync := rfl

/-- From offset 2 a built frame holds the bytes its checksum covers (R63). -/
theorem buildFrame_covered :
    ((buildFrame node port sync payload).drop 2).take (4 + payload.length) = frameBody node port sync payload :=
  List.take_left' (frameBody_length node port sync payload)

/-- After the payload stands the low half of the checksum (R45, R110). -/
theorem buildFrame_getElem?_lo :
    (buildFrame node port sync payload)[6 + payload.length]? =
      some (lo8 (checksum (frameBody node port sync payload) 0x7E7E)) := by
  rw [buildFrame_eq_append, show 6 + payload.length = 4 + payload.length + 2 by omega]
  simp

/-- The last byte is the high half of the checksum (R45, R110). -/
theorem buildFrame_getElem?_hi :
    (buildFrame node port sync payload)[7 + payload.length]? =
      some (hi8 (checksum (frameBody node port sync payload) 0x7E7E)) := by
  rw [buildFrame_eq_append, show 7 + payload.length = 4 + payload.length + 3 by omega]
  simp

end BuiltFrame

/-- The sequencer's three values have neither failing status bit set (R68, R111 e). -/
theorem decodeStatus_syncByte {sync : Byte} (h : sync ∈ [(0x02 : Byte), 0x01, 0x00]) :
    (decodeStatus sync).overflow = false ∧ (decodeStatus sync).invalid = false := by
  fin_cases h <;> decide

/-- Every operand of a built frame can be parsed back from it, so two equal frames have equal operands (R111 c). -/
theorem buildFrame_injective {n₁ p₁ s₁ n₂ p₂ s₂ : Byte} {l₁ l₂ : List Byte} (h₁ : l₁.length ≤ 255)
    (h₂ : l₂.length ≤ 255) (h : buildFrame n₁ p₁ s₁ l₁ = buildFrame n₂ p₂ s₂ l₂) :
    n₁ = n₂ ∧ p₁ = p₂ ∧ s₁ = s₂ ∧ l₁ = l₂ := by
  have hparse := congrArg tryParse h
  rw [tryParse_buildFrame n₁ p₁ s₁ h₁, tryParse_buildFrame n₂ p₂ s₂ h₂] at hparse
  injection hparse with hresp
  injection hresp with hsync hnode hport _ hdata
  exact ⟨hnode, hport, hsync, hdata⟩

/-- Settles O16: the frame's bytes are read off its shape, and it is injective because it parses back. -/
theorem builtFramesRoundTrip : Obligations.BuiltFramesRoundTrip := by
  unfold Obligations.BuiltFramesRoundTrip
  refine ⟨?frame, ?injective⟩
  case frame =>
    intro node port sync payload hlen f n
    have hcheck : checksum ((f.drop 2).take (4 + n)) 0x7E7E =
        joinLoHi (lo8 (checksum (frameBody node port sync payload) 0x7E7E))
          (hi8 (checksum (frameBody node port sync payload) 0x7E7E)) := by
      rw [buildFrame_covered, joinLoHi_halves]
    exact ⟨buildFrame_length node port sync payload, rfl, rfl, congrArg some (lengthByte_toNat hlen),
      ⟨_, _, buildFrame_getElem?_lo node port sync payload, buildFrame_getElem?_hi node port sync payload, hcheck⟩,
      tryParse_buildFrame node port sync hlen, decodeStatus_syncByte⟩
  case injective =>
    intro n₁ p₁ s₁ n₂ p₂ s₂ l₁ l₂ h₁ h₂ h
    exact buildFrame_injective h₁ h₂ h

/-- A payload that fits its length byte is built (R110). -/
theorem buildResult_of_fits (node port sync : Byte) {payload : List Byte} (h : payload.length ≤ 255) :
    buildResult node port sync payload = .frame (buildFrame node port sync payload) := if_neg (Nat.not_lt.mpr h)

/-- A longer payload is refused (R110). -/
theorem buildResult_of_long (node port sync : Byte) {payload : List Byte} (h : 255 < payload.length) :
    buildResult node port sync payload = .refused := if_pos h

/-- Settles O15: `BUILD` answers a value and commits the block as it stands. -/
theorem buildMakesTheRequestFrame : Obligations.BuildMakesTheRequestFrame := by
  unfold Obligations.BuildMakesTheRequestFrame
  intro node port sync payload s
  have hexec : exec (.build node port sync payload) s = .next (s.answered (buildResult node port sync payload)) := by
    rw [exec_eq, effectOf, State.commit_answer]
  refine ⟨?fits, ?long⟩
  case fits =>
    intro hlen body c
    rw [hexec, buildResult_of_fits node port sync hlen, ← lo8_eq_setWidth, ← hi8_eq_setWidth]
    rfl
  case long =>
    intro hlong
    rw [hexec, buildResult_of_long node port sync hlong]

/-! ### The sequencer's move, and who makes it -/

/-- The sequencer's value and move, state by state (R20, R112). -/
theorem syncValue_nextSync_cases (st : SyncState) :
    (st = .start ∧ syncValue st = 0x02 ∧ nextSync st = .a) ∨ (st = .a ∧ syncValue st = 0x01 ∧ nextSync st = .b) ∨
      (st = .b ∧ syncValue st = 0x00 ∧ nextSync st = .a) := by
  cases st <;> simp [syncValue, nextSync]

/-- An operation that carries no request never answers `ACCEPTED` (R82, R113). -/
theorem effectOf_result_ne_accepted {i : Instr} (h : requestOf i = none) (b : Block) :
    (effectOf i b).result ≠ .accepted := by
  cases i with
  | build node port sync payload =>
    simp only [effectOf, Effect.answer_result, buildResult]
    split_ifs <;> nofun
  | writeStart =>
    rcases writeStart_cases b with ⟨r, hr, e⟩ | ⟨-, -, -, e⟩ <;> rw [effectOf, e]
    · rintro rfl
      cases hr
    · nofun
  | rxData bs =>
    rcases rxData_cases bs b with ⟨-, e⟩ | ⟨-, -, e⟩ | ⟨-, -, e⟩ <;> rw [effectOf, e] <;> nofun
  | tick =>
    rcases tick_cases Config.hw.tIdle b with ⟨-, e⟩ | ⟨-, -, e⟩ | ⟨-, -, e⟩ <;> rw [effectOf, e] <;> nofun
  | reqTimeout =>
    rcases reqTimeout_cases b with ⟨-, e⟩ | ⟨-, e⟩ <;> rw [effectOf, e] <;> nofun
  | reqAbort reason =>
    simp only [effectOf, reqAbort]
    cases abortOutcome reason with
    | none => nofun
    | some o => cases b.reqState <;> nofun
  | reset | crcLoad _ | crcBit _ | crcByte _ | crcRead | checksum _ _ | tryParse _ | rxFlush | statusDecode _
  | idleFire | linkOpen | linkClose | linkError | linkDrain => nofun
  | _ => cases h

/-- All a request can do to the sequencer (R112, R113): accepted, it stores a frame with the old value and moves on;
else it leaves the sequencer. -/
theorem effectOf_sync_cases {i : Instr} {node port : Byte} {payload : List Byte}
    (h : requestOf i = some (node, port, payload)) (b : Block) :
    ((effectOf i b).result = .accepted ∧
      (effectOf i b).block.txFrame = buildFrame node port (syncValue b.syncState) payload ∧
      (effectOf i b).block.syncState = nextSync b.syncState) ∨
    ((effectOf i b).result ≠ .accepted ∧ (effectOf i b).block.syncState = b.syncState) := by
  rw [effectOf_request h]
  rcases issue_cases node port payload b with ⟨-, e⟩ | ⟨-, -, e⟩ | ⟨-, -, e⟩ <;> rw [e]
  · exact .inr ⟨nofun, rfl⟩
  · exact .inr ⟨nofun, rfl⟩
  · exact .inl ⟨rfl, rfl, rfl⟩

/-- An operation that answers `ACCEPTED` stores a frame with the sequencer's old value and moves it (R112). -/
theorem effectOf_sync_of_accepted {i : Instr} {b : Block} (h : (effectOf i b).result = .accepted) :
    (effectOf i b).block.txFrame[4]? = some (syncValue b.syncState) ∧
      (effectOf i b).block.syncState = nextSync b.syncState := by
  cases hreq : requestOf i with
  | none => exact absurd h (effectOf_result_ne_accepted hreq b)
  | some q =>
    rcases effectOf_sync_cases hreq b with ⟨-, htx, hsync⟩ | ⟨hne, -⟩
    · exact ⟨by rw [htx, buildFrame_getElem?_sync], hsync⟩
    · exact absurd h hne

/-- Every other operation but `RESET` and `LINK_OPEN` leaves the sequencer (R112). -/
theorem effectOf_syncState_of_not_accepted {i : Instr} {b : Block} (hreset : i ≠ .reset) (hopen : i ≠ .linkOpen)
    (h : (effectOf i b).result ≠ .accepted) : (effectOf i b).block.syncState = b.syncState := by
  by_contra hne
  rcases (effectOf_moves i b).syncState_writers hne with hi | hi | hreq
  · exact hreset hi
  · exact hopen hi
  · obtain ⟨q, hq⟩ := Option.isSome_iff_exists.mp hreq
    rcases effectOf_sync_cases hq b with ⟨hacc, -⟩ | ⟨-, hsame⟩
    · exact h hacc
    · exact hne hsame

/-- Settles O19: what is answered last is the effect's result, and the effect says whether the sequencer moves. -/
theorem syncSequencerMovesOnlyAsListed : Obligations.SyncSequencerMovesOnlyAsListed := by
  unfold Obligations.SyncSequencerMovesOnlyAsListed
  intro i s t ht
  obtain rfl := exec_next ht
  have hanswer : (s.commit (effectOf i s.toBlock)).results = s.results ++ [.accepted] ↔
      (effectOf i s.toBlock).result = .accepted := by simp
  refine ⟨?start, ?accepted, ?other⟩
  case start => rintro (rfl | rfl) <;> rfl
  case accepted =>
    intro hacc
    obtain ⟨htx, hsync⟩ := effectOf_sync_of_accepted (hanswer.mp hacc)
    rw [State.commit_toBlock, htx, hsync]
    rcases syncValue_nextSync_cases s.syncState with ⟨e, hv, hn⟩ | ⟨e, hv, hn⟩ | ⟨e, hv, hn⟩ <;>
      exact ⟨by rw [hv, e], by rw [hn, e]⟩
  case other =>
    intro hreset hopen hother
    exact effectOf_syncState_of_not_accepted hreset hopen (mt hanswer.mpr hother)

/-! ### `ISSUE` and `WRITE_START` -/

/-- Settles O17: the three things an `ISSUE` can do. -/
theorem issueArmsOneRequest : Obligations.IssueArmsOneRequest := by
  unfold Obligations.IssueArmsOneRequest
  intro node port payload s
  rw [exec_request rfl]
  refine ⟨?busy, ?tooLong, ?accepted⟩
  case busy =>
    intro hbusy
    rw [issue_of_pending hbusy, State.commit_answer]
  case tooLong =>
    intro hidle hlong
    rw [issue_of_long hidle hlong, State.commit_answer]
  case accepted =>
    intro hidle hlen
    refine ⟨syncValue s.syncState, nextSync s.syncState, syncValue_nextSync_cases s.syncState, ?_⟩
    rw [issue_of_fits hidle hlen]
    simp [State.commit, State.answered]

section WriteStart

variable {b : Block}

/-- With no frame waiting there is nothing to write (R114). -/
theorem writeStart_of_not_armed (h : b.reqState ≠ .armed) : writeStart b = .answer b .noFrame := by
  unfold writeStart
  cases hr : b.reqState with
  | idle | sent => rfl
  | armed => exact absurd hr h

/-- The link is tested before the write gate (R114). -/
theorem writeStart_of_closed (h : b.reqState = .armed) (hopen : b.isOpen = false) :
    writeStart b = .answer b .notOpen := by simp [writeStart, h, hopen]

/-- An open link that has not drained takes no frame (R114). -/
theorem writeStart_of_unwritable (h : b.reqState = .armed) (hopen : b.isOpen = true) (hwrite : b.canWrite = false) :
    writeStart b = .answer b .notWritable := by simp [writeStart, h, hopen, hwrite]

/-- A write that starts sends the stored frame and closes the write gate (R114). -/
theorem writeStart_of_writable (h : b.reqState = .armed) (hopen : b.isOpen = true) (hwrite : b.canWrite = true) :
    writeStart b =
      { block := { b with canWrite := false, reqState := .sent }, result := .started, events := [.tx b.txFrame] } := by
  simp [writeStart, h, hopen, hwrite]

end WriteStart

/-- Settles O20: the four things a `WRITE_START` can do. -/
theorem writeStartSendsTheStoredFrame : Obligations.WriteStartSendsTheStoredFrame := by
  unfold Obligations.WriteStartSendsTheStoredFrame
  intro s
  rw [exec_eq, effectOf]
  refine ⟨?noFrame, ?notOpen, ?notWritable, ?started⟩
  case noFrame =>
    intro h
    rw [writeStart_of_not_armed h, State.commit_answer]
  case notOpen =>
    intro h hopen
    rw [writeStart_of_closed h hopen, State.commit_answer]
  case notWritable =>
    intro h hopen hwrite
    rw [writeStart_of_unwritable h hopen hwrite, State.commit_answer]
  case started =>
    intro h hopen hwrite
    rw [writeStart_of_writable h hopen hwrite]
    rfl

end Sys2Proof.Machine

namespace Sys2Proof.Machine

/-! ### The decoder -/

/-- What committing a block with an answer and no event leaves of the machine. -/
theorem State.commit_answer_block (s : State) (b : Block) (r : Result) :
    s.commit (.answer b r) = { s.answered r with toBlock := b } := by
  simp [State.commit, State.answered]

/-- Settles O24: `RX_FLUSH` commits `RX_CLEAR` and answers `OK`. -/
theorem rxFlushClearsTheBuffer : Obligations.RxFlushClearsTheBuffer := by
  unfold Obligations.RxFlushClearsTheBuffer
  intro s
  rw [exec_eq, effectOf, State.commit_answer_block]
  rfl

section TryParse

variable {buf : List Byte}

/-- Fewer than six bytes are no header (R130). -/
theorem tryParse_of_short (h : buf.length < 6) : tryParse buf = .short := by simp [tryParse, h]

/-- A header whose data or checksum is still missing (R130). -/
theorem tryParse_of_partial (h6 : 6 ≤ buf.length) (hlen : buf.length < 8 + (byteAt buf 5).toNat) :
    tryParse buf = .partialFrame (headerOf buf) := by
  rcases tryParse_cases buf with ⟨h, -⟩ | ⟨-, -, h⟩ | ⟨h, -⟩
  · omega
  · exact h
  · omega

/-- What `TRY_PARSE` answers on a header with too few bytes after it, whatever the head bytes (R130, R140). -/
theorem tryParse_header {h0 h1 dst src st dl : Byte} {rest : List Byte} (hlen : rest.length < dl.toNat + 2) :
    tryParse (h0 :: h1 :: dst :: src :: st :: dl :: rest) =
      .partialFrame { toAddress := dst, fromAddress := src, statusByte := st, dataLength := dl } :=
  have hmissing : rest.length + 6 < 8 + dl.toNat := by omega
  tryParse_of_partial (buf := h0 :: h1 :: dst :: src :: st :: dl :: rest) (by simp) hmissing

/-- A frame that is all there (R130). -/
theorem tryParse_of_complete (hlen : 8 + (byteAt buf 5).toNat ≤ buf.length) :
    tryParse buf = .complete (responseOf buf) (computedChecksum buf == receivedChecksum buf) := by
  rcases tryParse_cases buf with ⟨h, -⟩ | ⟨-, h, -⟩ | ⟨-, h⟩
  · omega
  · omega
  · exact h

/-- What follows a header does not change it (R42). -/
theorem headerOf_append (e : List Byte) (h6 : 6 ≤ buf.length) : headerOf (buf ++ e) = headerOf buf := by
  simp (disch := omega) only [headerOf, byteAt_append]

/-- Where the checksum stands is fixed with the header (R61). -/
theorem crcOffset_append (e : List Byte) (h6 : 6 ≤ buf.length) : crcOffset (buf ++ e) = crcOffset buf := by
  simp (disch := omega) only [crcOffset, byteAt_append]

section Whole

variable (e : List Byte) (hlen : crcOffset buf + 2 ≤ buf.length)
include hlen

/-- A buffer that holds a whole frame holds its header. -/
theorem header_le_of_whole : 6 ≤ buf.length := by
  have hcrc : 6 ≤ crcOffset buf := Nat.le_add_right _ _
  omega

/-- What follows a whole frame does not change the Response it holds (R134). -/
theorem responseOf_append : responseOf (buf ++ e) = responseOf buf := by
  have h6 := header_le_of_whole hlen
  simp (disch := omega) only [responseOf, crcOffset_append, slice_append, byteAt_append]

/-- What follows a whole frame is not covered by its checksum (R63, R134). -/
theorem computedChecksum_append : computedChecksum (buf ++ e) = computedChecksum buf := by
  have h6 := header_le_of_whole hlen
  simp (disch := omega) only [computedChecksum, crcOffset_append, slice_append]

/-- What follows a whole frame does not change the checksum it carries (R134). -/
theorem receivedChecksum_append : receivedChecksum (buf ++ e) = receivedChecksum buf := by
  have h6 := header_le_of_whole hlen
  simp (disch := omega) only [receivedChecksum, crcOffset_append, byteAt_append]

end Whole

/-- A whole frame parses the same however much follows it (R134). -/
theorem tryParse_append_of_complete {r : Response} {k : Bool} (e : List Byte) (h : tryParse buf = .complete r k) :
    tryParse (buf ++ e) = .complete r k := by
  obtain ⟨hlen, rfl, rfl⟩ := tryParse_complete h
  have hwhole : crcOffset buf + 2 ≤ buf.length := by
    rw [crcOffset, Config.hw_hdrLen]
    omega
  have hlen' : 8 + (byteAt (buf ++ e) 5).toNat ≤ (buf ++ e).length := by
    rw [byteAt_append e (by omega), List.length_append]
    omega
  rw [tryParse_of_complete hlen', responseOf_append e hwhole, computedChecksum_append e hwhole,
    receivedChecksum_append e hwhole]

end TryParse

/-- Settles O22: a whole frame parses the same with bytes after it; a header stays while its frame is completed. -/
theorem tryParseIsMonotone : Obligations.TryParseIsMonotone := by
  unfold Obligations.TryParseIsMonotone
  refine fun b e => ⟨fun r k => tryParse_append_of_complete e, fun h hp => ?_⟩
  obtain ⟨h6, -, rfl⟩ := tryParse_partial hp
  have hheader := headerOf_append e h6
  rcases tryParse_cases (b ++ e) with ⟨hshort, -⟩ | ⟨-, -, hpartial⟩ | ⟨-, hwhole⟩
  · rw [List.length_append] at hshort
    omega
  · exact .inl (by rw [hpartial, hheader])
  · exact .inr ⟨_, _, hwhole, congrArg Header.toAddress hheader, congrArg Header.fromAddress hheader,
      congrArg Header.statusByte hheader, congrArg Header.dataLength hheader⟩

/-- Settles O21: by the shape of the buffer, what `TRY_PARSE` answers is one of the three cases of R130. -/
theorem tryParseReadsTheFrame : Obligations.TryParseReadsTheFrame := by
  unfold Obligations.TryParseReadsTheFrame
  intro s
  simp only [exec_eq, effectOf, State.commit_answer]
  refine ⟨?short, ?incomplete, ?complete⟩
  case short =>
    intro buf hlen
    rw [tryParse_of_short hlen]
  case incomplete =>
    intro h0 h1 dst src st dl rest hlen
    rw [tryParse_header hlen]
  case complete =>
    intro h0 h1 dst src st dl lo hi data extra hlen
    rw [tryParse_frame hlen, Config.hw_seed, joinLoHi_eq_append]
    rfl

/-- No short-circuit while the header is not there, or with neither flag set in the byte read as status (R136). -/
theorem shortCircuits_eq_false {buf : List Byte}
    (h : ∀ st : Byte, buf[4]? = some st → buf.length < 6 ∨ st &&& 0x60 = 0x00) : shortCircuits buf = false := by
  rw [shortCircuits_false_iff]
  intro h6
  rcases h _ (getElem?_eq_byteAt (by omega)) with hshort | hclear
  · omega
  · exact (statusFails_false_iff _).mpr hclear

section RxData

variable {bs : List Byte} {b : Block}

/-- No bytes are no receive event (R135). -/
theorem rxData_nil (b : Block) : rxData [] b = .answer b .refused := rfl

/-- A receive event that is not short-circuited is appended and restarts the timer (R135). -/
theorem rxData_of_clear (hne : bs ≠ []) (hclear : shortCircuits (b.rxBuf ++ bs) = false) :
    rxData bs b = .answer (rxAppend b bs) .ok := by simp [rxData, hne, hclear]

/-- A receive event that completes a header with a failing status byte fails the device at once (R136, R137). -/
theorem rxData_of_fails (hne : bs ≠ []) (hfail : shortCircuits (b.rxBuf ++ bs) = true) :
    rxData bs b =
      { block := (deviceFail (b.rxBuf ++ bs) b).1, result := .ok, events := (deviceFail (b.rxBuf ++ bs) b).2 } := by
  simp [rxData, hne, hfail]

end RxData

/-- Settles O23: by the status test on the whole buffer, an append or a device failure. -/
theorem rxDataAppendsOrShortCircuits : Obligations.RxDataAppendsOrShortCircuits := by
  unfold Obligations.RxDataAppendsOrShortCircuits
  intro bs s
  rw [exec_eq, effectOf]
  refine ⟨?refused, ?append, ?fail⟩
  case refused =>
    rintro rfl
    rw [rxData_nil, State.commit_answer]
  case append =>
    intro hne hclear
    rw [rxData_of_clear hne (shortCircuits_eq_false hclear), State.commit_answer_block]
    rfl
  case fail =>
    intro st hne h6 hst hset
    obtain rfl : byteAt (s.rxBuf ++ bs) 4 = st :=
      Option.some.inj ((getElem?_eq_byteAt (by omega)).symm.trans hst)
    have hfail : shortCircuits (s.rxBuf ++ bs) = true :=
      (shortCircuits_iff _).mpr ⟨h6, (statusFails_iff _).mpr hset⟩
    rw [rxData_of_fails hne hfail]
    constructor
    · intro hidle
      rw [deviceFail_idle _ hidle]
      exact congrArg Host.Outcome.next (State.commit_answer_block s (rxClear s.toBlock) .ok)
    · intro hpending
      rw [deviceFail_pending _ hpending]
      rfl

end Sys2Proof.Machine

namespace Sys2Proof.Machine

/-! ### The status byte -/

/-- Settles O25: `STATUS_DECODE` answers the decoded flags and commits the block as it stands. -/
theorem statusDecodeReadsTheBits : Obligations.StatusDecodeReadsTheBits := by
  unfold Obligations.StatusDecodeReadsTheBits
  intro b s
  rw [exec_eq, effectOf, State.commit_answer, decodeStatus]

/-- A flag put at place `i` is bit `i` of the byte, and no other bit is set (R150). -/
@[simp] theorem flagAt_getElem (f : Bool) {i j : Nat} (hj : j < 8) : (flagAt f i)[j] = (decide (i = j) && f) := by
  cases f with
  | false => simp [flagAt]
  | true =>
    have hplace : (i ≤ j ∧ j - i = 0) ↔ i = j := by omega
    rw [Bool.eq_iff_iff]
    simp [flagAt, BitVec.getElem_one, hplace]

/-- Each flag is read back from its own place, where the other seven leave the bit clear (R152). -/
theorem decodeStatus_encodeStatus (f : Status) : decodeStatus (encodeStatus f) = f := by
  simp [decodeStatus, encodeStatus]

/-- The eight flags are all there is in the byte (R150). -/
theorem decodeStatus_injective : Function.Injective decodeStatus := by
  intro a b h
  rw [decodeStatus, decodeStatus, Status.mk.injEq] at h
  obtain ⟨h0, h1, h2, h3, h4, h5, h6, h7⟩ := h
  apply BitVec.eq_of_getLsbD_eq
  intro i hi
  interval_cases i <;> assumption

/-- Settles O26: decoding undoes encoding flag by flag; being injective, it is undone by encoding. -/
theorem statusDecodeHasAnInverse : Obligations.StatusDecodeHasAnInverse := by
  unfold Obligations.StatusDecodeHasAnInverse
  exact ⟨fun b => decodeStatus_injective (decodeStatus_encodeStatus (decodeStatus b)), decodeStatus_encodeStatus⟩

end Sys2Proof.Machine

namespace Sys2Proof.Machine

/-! ### The idle detector -/

section Tick

variable {b : Block}

/-- A tick with the timer disarmed is ignored (R160). -/
theorem effectOf_tick_of_disarmed (h : b.idleArmed = false) : effectOf .tick b = .answer b .ok := by
  simp [effectOf, tick, h]

/-- A tick below `T_IDLE` with the timer armed counts (R160). -/
theorem effectOf_tick_of_below (h : b.idleArmed = true) (hbelow : b.idleCnt + 1 < Config.hw.tIdle) :
    effectOf .tick b = .answer { b with idleCnt := b.idleCnt + 1 } .ok := by
  simp [effectOf, tick, h, hbelow]

end Tick

/-- Settles O27: the three things a tick can do; the third has the effect of `IDLE_FIRE`. -/
theorem tickCountsThenFires : Obligations.TickCountsThenFires := by
  unfold Obligations.TickCountsThenFires
  refine ⟨Config.hw_tIdle_ge, Config.hw_tIdle_le, fun s => ⟨?disarmed, ?below, ?fires⟩⟩
  case disarmed =>
    intro h
    rw [exec_eq, effectOf_tick_of_disarmed h, State.commit_answer]
  case below =>
    intro h hbelow
    rw [exec_eq, effectOf_tick_of_below h hbelow, State.commit_answer_block]
    rfl
  case fires =>
    intro h hlast
    rw [exec_eq, exec_eq, effectOf_fires (.inr ⟨rfl, h, hlast⟩), effectOf_fires (.inl rfl)]

/-! ### A buffer's status byte -/

section ReadableStatus

variable {buf : List Byte}

/-- Once the header is there, no short-circuit says that neither status bit is set (R136, R151). -/
theorem shortCircuits_eq_false_iff (h6 : 6 ≤ buf.length) :
    shortCircuits buf = false ↔ byteAt buf 4 &&& 0x60 = 0x00 := by
  rw [shortCircuits_false_iff, statusFails_false_iff]
  exact forall_prop_of_true h6

theorem shortCircuits_eq_false_iff_of_partial {h : Header} (hp : tryParse buf = .partialFrame h) :
    shortCircuits buf = false ↔ h.statusByte &&& 0x60 = 0x00 := by
  obtain ⟨h6, -, rfl⟩ := tryParse_partial hp
  exact shortCircuits_eq_false_iff h6

theorem shortCircuits_eq_false_iff_of_complete {r : Response} {k : Bool} (hp : tryParse buf = .complete r k) :
    shortCircuits buf = false ↔ r.statusByte &&& 0x60 = 0x00 := by
  obtain ⟨hlen, rfl, -⟩ := tryParse_complete hp
  exact shortCircuits_eq_false_iff (by omega)

end ReadableStatus

/-- Settles O31: the status byte a parse reports is the one R22 (c) speaks of. -/
theorem idleFireFindsNoStatusFailure : Obligations.IdleFireFindsNoStatusFailure := by
  unfold Obligations.IdleFireFindsNoStatusFailure
  intro s hinv
  have hclear : shortCircuits s.rxBuf = false := (shortCircuits_false_iff _).mpr hinv.statusClear
  exact ⟨fun _ hp => (shortCircuits_eq_false_iff_of_partial hp).mp hclear,
    fun _ _ hp => (shortCircuits_eq_false_iff_of_complete hp).mp hclear⟩

/-! ### The idle fire, case by case -/

/-- The one event that resolves a request with a Response, by its return code (R163). -/
def deliveryEvent (r : Response) : Event :=
  if r.returnCode = some 0x00 then .resolve .response true (.response r)
  else .resolve .deviceReturnCodeError false (.response r)

theorem deliveryEvent_resolves (r : Response) : (deliveryEvent r).resolves = true := by
  unfold deliveryEvent
  split_ifs <;> rfl

section IdleFire

variable {b : Block} {r : Response}

/-- A delivery with no request outstanding reports the Response (R163). -/
theorem deliver_of_idle (h : b.reqState = .idle) :
    deliver r b = ({ rxClear b with canWrite := true }, [.unsolicited r]) := by
  rcases deliver_cases r b with ⟨-, e⟩ | ⟨hpending, -⟩
  · exact e
  · exact absurd h hpending

/-- A delivery with a request outstanding resolves it with the Response (R163). -/
theorem deliver_of_pending (h : b.reqState ≠ .idle) :
    deliver r b = ({ rxClear b with canWrite := true, reqState := .idle }, [deliveryEvent r]) := by
  rcases deliver_cases r b with ⟨hidle, -⟩ | ⟨-, e⟩
  · exact absurd hidle h
  · exact e

/-- A buffer that holds no whole frame and no failing status byte is retained (R162 cases 1 and 3). -/
theorem idleFire_of_incomplete (hclear : shortCircuits b.rxBuf = false)
    (hmissing : ∀ r k, tryParse b.rxBuf ≠ .complete r k) :
    idleFire b = ({ b with idleArmed := false, idleCnt := 0 }, []) := by
  rcases idleFire_cases b with e | ⟨hfail, -⟩ | ⟨r, hp, -⟩ | ⟨r, hp, -⟩
  · exact e
  · exact absurd hclear (by simp [hfail])
  · exact absurd hp (hmissing r false)
  · exact absurd hp (hmissing r true)

/-- A failing status byte fails the device (R162 case 2). -/
theorem idleFire_of_statusFails (hfail : shortCircuits b.rxBuf = true) : idleFire b = deviceFail b.rxBuf b := by
  obtain ⟨h6, hs⟩ := (shortCircuits_iff _).mp hfail
  exact dispose_statusFails (b := { b with idleArmed := false, idleCnt := 0 }) h6 hs

/-- A whole frame whose checksum disagrees fails the request (R162 case 4). -/
theorem idleFire_of_mismatch (hp : tryParse b.rxBuf = .complete r false) (hs : r.statusByte &&& 0x60 = 0x00) :
    idleFire b =
      raise .checksumMismatch (.checksums (computedChecksum b.rxBuf) (receivedChecksum b.rxBuf)) (rxClear b) :=
  dispose_mismatch (b := { b with idleArmed := false, idleCnt := 0 }) hp ((statusFails_false_iff _).mpr hs)

/-- A whole good frame is delivered (R162 case 5). -/
theorem idleFire_of_good (hp : tryParse b.rxBuf = .complete r true) (hs : r.statusByte &&& 0x60 = 0x00) :
    idleFire b = deliver r b :=
  dispose_deliver (b := { b with idleArmed := false, idleCnt := 0 }) hp ((statusFails_false_iff _).mpr hs)

end IdleFire

section ExecIdleFire

variable {s : State} {c : Block}

/-- An idle fire that emits nothing (R161, log 10). -/
theorem exec_idleFire_of_silent (h : idleFire s.toBlock = (c, [])) :
    exec .idleFire s = .next { s.answered .ok with toBlock := c } := by
  rw [exec_eq, effectOf, idleFireEffect, h]
  exact congrArg Host.Outcome.next (State.commit_answer_block s c .ok)

/-- An idle fire that emits one event (R161, log 10). -/
theorem exec_idleFire_of_emits {ev : Event} (h : idleFire s.toBlock = (c, [ev])) :
    exec .idleFire s = .next { (s.answered .ok).emitting ev with toBlock := c } := by
  rw [exec_eq, effectOf, idleFireEffect, h]
  rfl

end ExecIdleFire

/-- The checksum computed over a whole frame, by the length its Response reports (R63). -/
theorem computedChecksum_responseOf (buf : List Byte) :
    computedChecksum buf = checksum ((buf.drop 2).take (4 + (responseOf buf).dataLength.toNat)) 0x7E7E := by
  have hcovered : 6 + (byteAt buf 5).toNat - 2 = 4 + (byteAt buf 5).toNat := by omega
  rw [computedChecksum, slice, crcOffset, Config.hw_hdrLen, Config.hw_seed, hcovered]
  rfl

/-- The checksum a whole frame carries, by the length its Response reports: high byte last (R45). -/
theorem receivedChecksum_responseOf (buf : List Byte) :
    receivedChecksum buf = (buf.getD (7 + (responseOf buf).dataLength.toNat) 0x00 ++
      buf.getD (6 + (responseOf buf).dataLength.toNat) 0x00 : BitVec (8 + 8)) := by
  have hhigh : 6 + (byteAt buf 5).toNat + 1 = 7 + (byteAt buf 5).toNat := by omega
  rw [receivedChecksum, joinLoHi_eq_append, crcOffset, Config.hw_hdrLen, hhigh]
  rfl

/-- The status byte a parse reports is byte 4 of a buffer that holds a header (R130). -/
theorem readable_status {buf : List Byte} {st : Byte}
    (h : (∃ h : Header, tryParse buf = .partialFrame h ∧ h.statusByte = st) ∨
      ∃ (r : Response) (k : Bool), tryParse buf = .complete r k ∧ r.statusByte = st) :
    6 ≤ buf.length ∧ byteAt buf 4 = st := by
  rcases h with ⟨h, hp, rfl⟩ | ⟨r, k, hp, rfl⟩
  · obtain ⟨h6, -, rfl⟩ := tryParse_partial hp
    exact ⟨h6, rfl⟩
  · obtain ⟨hlen, rfl, -⟩ := tryParse_complete hp
    exact ⟨by omega, rfl⟩

/-- Settles O28: each case of the disposition, on a block whose timer is disarmed first. -/
theorem idleFireDisposesOfTheBuffer : Obligations.IdleFireDisposesOfTheBuffer := by
  unfold Obligations.IdleFireDisposesOfTheBuffer
  intro s
  refine ⟨?short, ?incomplete, ?statusFails, ?mismatch, ?good⟩
  case short =>
    intro hp
    exact exec_idleFire_of_silent (dispose_short (b := { s.toBlock with idleArmed := false, idleCnt := 0 }) hp)
  case incomplete =>
    intro h hp hs
    exact exec_idleFire_of_silent (idleFire_of_incomplete
      ((shortCircuits_eq_false_iff_of_partial hp).mpr hs) (by simp [hp]))
  case statusFails =>
    intro st hst hs
    obtain ⟨h6, rfl⟩ := readable_status hst
    have hfire := idleFire_of_statusFails ((shortCircuits_iff _).mpr ⟨h6, (statusFails_iff _).mpr hs⟩)
    constructor
    · intro hidle
      exact exec_idleFire_of_silent (hfire.trans (deviceFail_idle _ hidle))
    · intro hpending
      exact exec_idleFire_of_emits (hfire.trans (deviceFail_pending _ hpending))
  case mismatch =>
    intro r hp hs
    have hfire := idleFire_of_mismatch hp hs
    obtain ⟨-, rfl, -⟩ := tryParse_complete hp
    rw [computedChecksum_responseOf, receivedChecksum_responseOf] at hfire
    constructor
    · intro hidle
      exact exec_idleFire_of_silent (hfire.trans (raise_idle _ _ hidle))
    · intro hpending
      exact exec_idleFire_of_emits (hfire.trans (raise_pending _ _ hpending))
  case good =>
    intro r hp hs
    have hfire := idleFire_of_good hp hs
    constructor
    · intro hidle
      exact exec_idleFire_of_emits (hfire.trans (deliver_of_idle hidle))
    · intro hpending
      exact exec_idleFire_of_emits (hfire.trans (deliver_of_pending hpending))

/-! ### A response received -/

/-- `RX_DATA` with no short-circuit appends, answers `OK` and emits nothing (R135). -/
theorem effectOf_rxData_of_clear {b : Block} {bs : List Byte} (hne : bs ≠ [])
    (hclear : shortCircuits (b.rxBuf ++ bs) = false) : effectOf (.rxData bs) b = .answer (rxAppend b bs) .ok :=
  rxData_of_clear hne hclear

section Delivery

variable {s : State} {bs : List Byte} {r : Response}

/-- A receive event with no short-circuit and fewer than `T_IDLE` ticks retain the bytes and count (R160, R168). -/
theorem execAll_rxData_ticks_below {k : Nat} (hne : bs ≠ []) (hclear : shortCircuits (s.rxBuf ++ bs) = false)
    (hk : k < Config.hw.tIdle) :
    ∃ t : State, execAll (.rxData bs :: ticks k) s = some t ∧ t.events = s.events ∧
      t.toBlock = { rxAppend s.toBlock bs with idleCnt := k } := by
  rw [execAll_cons, effectOf_rxData_of_clear hne hclear]
  obtain ⟨t, hrun, hblock, hevents⟩ := execAll_ticks_armed k
    (s := s.commit (.answer (rxAppend s.toBlock bs) .ok)) rfl (by simpa using hk)
  exact ⟨t, hrun, by simpa using hevents, by simpa using hblock⟩

/-- The receive event that completes a good response and `T_IDLE` ticks resolve the outstanding request with it (R163,
R168). -/
theorem execAll_rxData_ticks_deliver (hne : bs ≠ []) (hpending : s.reqState ≠ .idle)
    (hp : tryParse (s.rxBuf ++ bs) = .complete r true) (hs : r.statusByte &&& 0x60 = 0x00) :
    ∃ t : State, execAll (.rxData bs :: ticks Config.hw.tIdle) s = some t ∧
      t.events = s.events ++ [deliveryEvent r] ∧
      t.toBlock = { rxClear s.toBlock with canWrite := true, reqState := .idle } := by
  have hclear := (shortCircuits_eq_false_iff_of_complete hp).mpr hs
  have hfire : idleFire (rxAppend s.toBlock bs) =
      ({ rxClear s.toBlock with canWrite := true, reqState := .idle }, [deliveryEvent r]) :=
    (idleFire_of_good (b := rxAppend s.toBlock bs) hp hs).trans (deliver_of_pending hpending)
  rw [execAll_cons, effectOf_rxData_of_clear hne hclear]
  obtain ⟨t, hrun, hblock, hevents⟩ := execAll_ticks_fire
    (s := s.commit (.answer (rxAppend s.toBlock bs) .ok)) rfl rfl
  rw [State.commit_toBlock, Effect.answer_block, hfire] at hblock hevents
  exact ⟨t, hrun, by simpa using hevents, hblock⟩

end Delivery

/-- Settles O29: below `T_IDLE` the ticks count; the `T_IDLE`-th delivers. -/
theorem responseIsDeliveredAtTheLastTick : Obligations.ResponseIsDeliveredAtTheLastTick := by
  unfold Obligations.ResponseIsDeliveredAtTheLastTick
  intro s bs r hne hpending hp hs
  refine ⟨fun k hk => ?below, execAll_rxData_ticks_deliver hne hpending hp hs⟩
  have hclear := (shortCircuits_eq_false_iff_of_complete hp).mpr hs
  obtain ⟨t, hrun, hevents, hblock⟩ := execAll_rxData_ticks_below hne hclear hk
  exact ⟨t, hrun, hevents, by rw [hblock]; rfl, by rw [hblock]; rfl⟩

/-! ### A response received in two parts -/

/-- A status byte that does not short-circuit a buffer does not short-circuit its first part (R136). -/
theorem shortCircuits_eq_false_of_append {a b : List Byte} (h : shortCircuits (a ++ b) = false) :
    shortCircuits a = false := by
  rw [shortCircuits_false_iff] at h ⊢
  intro h6
  rw [← byteAt_append b (by omega)]
  exact h (by rw [List.length_append]; omega)

/-- A whole frame cut short is not a whole frame (R134). -/
theorem tryParse_ne_complete_of_cut {a b : List Byte} {r : Response} {k : Bool} (hb : b ≠ [])
    (hlen : (a ++ b).length = 8 + r.dataLength.toNat) (hp : tryParse (a ++ b) = .complete r k) (r' : Response)
    (k' : Bool) : tryParse a ≠ .complete r' k' := by
  intro ha
  obtain ⟨rfl, -⟩ := ParseResult.complete.inj ((tryParse_append_of_complete b ha).symm.trans hp)
  obtain ⟨hwhole, rfl, -⟩ := tryParse_complete ha
  have hshorter : a.length < (a ++ b).length := by
    simpa using List.length_pos_iff.mpr hb
  rw [hlen] at hshorter
  exact absurd hwhole (Nat.not_le.mpr hshorter)

/-- While the buffer holds an incomplete frame with a clear status byte a tick moves the timer alone (R160, R162). -/
theorem effectOf_tick_of_incomplete {b : Block} (hclear : shortCircuits b.rxBuf = false)
    (hmissing : ∀ r k, tryParse b.rxBuf ≠ .complete r k) :
    ∃ armed cnt, effectOf .tick b = .answer { b with idleArmed := armed, idleCnt := cnt } .ok := by
  by_cases hfires : firesIdle .tick b
  · refine ⟨false, 0, ?_⟩
    rw [effectOf_fires hfires, idleFireEffect, idleFire_of_incomplete hclear hmissing]
    rfl
  · rcases effectOf_tick_quiet hfires with e | ⟨-, -, e⟩
    · exact ⟨b.idleArmed, b.idleCnt, e⟩
    · exact ⟨b.idleArmed, b.idleCnt + 1, e⟩

/-- While the buffer holds an incomplete frame with a clear status byte, any number of ticks moves the timer alone. -/
theorem execAll_ticks_of_incomplete (n : Nat) {s : State} (hclear : shortCircuits s.rxBuf = false)
    (hmissing : ∀ r k, tryParse s.rxBuf ≠ .complete r k) :
    ∃ (t : State) (armed : Bool) (cnt : Nat), execAll (ticks n) s = some t ∧ t.events = s.events ∧
      t.toBlock = { s.toBlock with idleArmed := armed, idleCnt := cnt } := by
  induction n generalizing s with
  | zero => exact ⟨s, s.idleArmed, s.idleCnt, rfl, rfl, rfl⟩
  | succ n ih =>
    obtain ⟨armed, cnt, e⟩ := effectOf_tick_of_incomplete hclear hmissing
    rw [ticks_succ, execAll_cons, e]
    obtain ⟨t, armed', cnt', hrun, hevents, hblock⟩ :=
      ih (s := s.commit (.answer { s.toBlock with idleArmed := armed, idleCnt := cnt } .ok)) hclear hmissing
    exact ⟨t, armed', cnt', hrun, by simpa using hevents, hblock⟩

/-- The first part of a frame and any number of ticks leave its bytes in the buffer, whatever the timer holds then. -/
theorem execAll_rxData_ticks_of_incomplete (n : Nat) {s : State} {bs : List Byte} (hne : bs ≠ [])
    (hclear : shortCircuits (s.rxBuf ++ bs) = false) (hmissing : ∀ r k, tryParse (s.rxBuf ++ bs) ≠ .complete r k) :
    ∃ (t : State) (armed : Bool) (cnt : Nat), execAll (.rxData bs :: ticks n) s = some t ∧ t.events = s.events ∧
      t.toBlock = { rxAppend s.toBlock bs with idleArmed := armed, idleCnt := cnt } := by
  rw [execAll_cons, effectOf_rxData_of_clear hne hclear]
  obtain ⟨t, armed, cnt, hrun, hevents, hblock⟩ := execAll_ticks_of_incomplete n
    (s := s.commit (.answer (rxAppend s.toBlock bs) .ok)) hclear hmissing
  exact ⟨t, armed, cnt, hrun, by simpa using hevents, hblock⟩

/-- Settles O30: the first part waits in the buffer, and the second part delivers what the whole response does. -/
theorem splitResponseIsDeliveredOnce : Obligations.SplitResponseIsDeliveredOnce := by
  unfold Obligations.SplitResponseIsDeliveredOnce
  intro s a b r k hempty hpending ha hb hlen hp hs
  have hclear : shortCircuits a = false := shortCircuits_eq_false_of_append
    ((shortCircuits_eq_false_iff_of_complete hp).mpr hs)
  have hmissing := tryParse_ne_complete_of_cut hb hlen hp
  obtain ⟨m, armed, cnt, hfirst, hquiet, hm⟩ := execAll_rxData_ticks_of_incomplete k (s := s) ha
    (by simpa [hempty] using hclear) (by simpa [hempty] using hmissing)
  obtain ⟨t, hsecond, ht, htblock⟩ := execAll_rxData_ticks_deliver (s := m) hb
    (by simpa [hm] using hpending) (by simpa [hm, hempty] using hp) hs
  obtain ⟨u, hwhole, hu, hublock⟩ := execAll_rxData_ticks_deliver (s := s) (bs := a ++ b)
    (by simp [ha]) hpending (by simpa [hempty] using hp) hs
  refine ⟨t, u, deliveryEvent r, ?run, hwhole, ?block, by rw [ht, hquiet], hu, deliveryEvent_resolves r⟩
  case run => rw [execAll_append, hfirst, Option.bind_some, hsecond]
  case block =>
    rw [htblock, hublock, hm]
    rfl

end Sys2Proof.Machine

namespace Sys2Proof.Machine

/-! ### Link and request control -/

/-- What committing an effect with one event leaves of the machine. -/
theorem State.commit_one_event (s : State) (b : Block) (r : Result) (ev : Event) :
    s.commit { block := b, result := r, events := [ev] } = { (s.answered r).emitting ev with toBlock := b } := rfl

section Raise

variable {b : Block} (o : ReqOutcome) (info : Info) (r : Result)

/-- With no request outstanding a raising operation only answers (R210). -/
theorem raiseAnswering_of_idle (h : b.reqState = .idle) : raiseAnswering o info b r = .answer b r := by
  rw [raiseAnswering, raise_idle o info h]
  rfl

/-- With a request outstanding a raising operation resolves it once and frees the register (R210). -/
theorem raiseAnswering_of_pending (h : b.reqState ≠ .idle) :
    raiseAnswering o info b r =
      { block := { b with reqState := .idle }, result := r, events := [.resolve o (outcomeSuccess o) info] } := by
  rw [raiseAnswering, raise_pending o info h]

end Raise

/-- Settles O32: `LINK_OPEN` commits the three items it writes and answers `OK`. -/
theorem linkOpenOpensTheLink : Obligations.LinkOpenOpensTheLink := by
  unfold Obligations.LinkOpenOpensTheLink
  intro s
  rw [exec_eq, effectOf, State.commit_answer_block]
  rfl

/-- Both link-down events commit one effect, each with its cause (R181, R182). -/
theorem effectOf_linkDown {i : Instr} {cause : LinkCause}
    (h : (i = .linkClose ∧ cause = .closed) ∨ (i = .linkError ∧ cause = .error)) (b : Block) :
    effectOf i b = linkDown cause b := by
  rcases h with ⟨rfl, rfl⟩ | ⟨rfl, rfl⟩ <;> rfl

section LinkEvents

variable {b : Block} (cause : LinkCause)

/-- With no request outstanding a link-down event clears link and buffer (R181, R182). -/
theorem linkDown_of_idle (h : b.reqState = .idle) :
    linkDown cause b = .answer { rxClear b with isOpen := false, canWrite := false } .ok :=
  raiseAnswering_of_idle _ _ _ h

/-- With a request outstanding a link-down event also fails it with its cause (R181, R182). -/
theorem linkDown_of_pending (h : b.reqState ≠ .idle) :
    linkDown cause b =
      { block := { rxClear b with isOpen := false, canWrite := false, reqState := .idle }, result := .ok,
        events := [.resolve .linkError false (.cause cause)] } :=
  raiseAnswering_of_pending _ _ _ h

/-- A drain makes an open link writable (R183). -/
theorem effectOf_linkDrain_of_open (h : b.isOpen = true) :
    effectOf .linkDrain b = .answer { b with canWrite := true } .ok := by simp [effectOf, h]

/-- A drain leaves a closed link as it stands (R183). -/
theorem effectOf_linkDrain_of_closed (h : b.isOpen = false) : effectOf .linkDrain b = .answer b .ok := by
  have hsame : (if b.isOpen then true else b.canWrite) = b.canWrite := by simp [h]
  rw [effectOf, hsame]

end LinkEvents

/-- Settles O33: the link bits and the buffer are cleared, then the request is failed with the cause. -/
theorem linkCloseAndErrorFailTheRequest : Obligations.LinkCloseAndErrorFailTheRequest := by
  unfold Obligations.LinkCloseAndErrorFailTheRequest
  intro s i cause hi
  rw [exec_eq, effectOf_linkDown hi]
  refine ⟨fun hidle => ?idle, fun hpending => ?pending⟩
  case idle =>
    rw [linkDown_of_idle cause hidle, State.commit_answer_block]
    rfl
  case pending =>
    rw [linkDown_of_pending cause hpending, State.commit_one_event]
    rfl

/-- Settles O34: a drain writes `can_write` on an open link, and writes it as it stands on a closed one. -/
theorem linkDrainMakesWritableWhileOpen : Obligations.LinkDrainMakesWritableWhileOpen := by
  unfold Obligations.LinkDrainMakesWritableWhileOpen
  intro s
  rw [exec_eq]
  refine ⟨fun hopen => ?opened, fun hclosed => ?closed⟩
  case opened =>
    rw [effectOf_linkDrain_of_open hopen, State.commit_answer_block]
    rfl
  case closed => rw [effectOf_linkDrain_of_closed hclosed, State.commit_answer]

section ReqTimeout

variable {b : Block}

/-- With no request outstanding there is nothing to time out (R184). -/
theorem reqTimeout_of_idle (h : b.reqState = .idle) : reqTimeout b = .answer b .noRequest := by
  rcases reqTimeout_cases b with ⟨-, e⟩ | ⟨hpending, -⟩
  · exact e
  · exact absurd h hpending

/-- A timeout ends the outstanding request, opens the write gate and clears the buffer (R184). -/
theorem reqTimeout_of_pending (h : b.reqState ≠ .idle) :
    reqTimeout b =
      { block := { rxClear b with canWrite := true, reqState := .idle }, result := .done,
        events := [.resolve .requestTimeout false .none] } := by
  rcases reqTimeout_cases b with ⟨hidle, -⟩ | ⟨-, e⟩
  · exact absurd hidle h
  · exact e.trans (raiseAnswering_of_pending _ _ _ h)

end ReqTimeout

/-- Settles O35: with a request outstanding the gate is opened and the buffer cleared, then the request is failed. -/
theorem reqTimeoutResolvesAndFreesTheLink : Obligations.ReqTimeoutResolvesAndFreesTheLink := by
  unfold Obligations.ReqTimeoutResolvesAndFreesTheLink
  intro s
  rw [exec_eq, effectOf]
  refine ⟨fun hidle => ?idle, fun hpending => ?pending⟩
  case idle => rw [reqTimeout_of_idle hidle, State.commit_answer]
  case pending =>
    rw [reqTimeout_of_pending hpending, State.commit_one_event]
    rfl

section ReqAbort

variable {reason : Byte} {b : Block} {o : ReqOutcome}

/-- The reason as an outcome (R185, log 14): the two codes it takes, each with its outcome. -/
theorem abortOutcome_eq_some_iff :
    abortOutcome reason = some o ↔ (reason = 6 ∧ o = .writeTimeout) ∨ (reason = 8 ∧ o = .aborted) := by
  unfold abortOutcome
  split_ifs with h6 h8
  · subst h6
    simp [eq_comm]
  · subst h8
    simp [eq_comm]
  · exact iff_of_false nofun (by tauto)

/-- Another reason is refused, whatever the request register holds (R185). -/
theorem reqAbort_of_unknown (h6 : reason ≠ 6) (h8 : reason ≠ 8) : reqAbort reason b = .answer b .refused := by
  rw [reqAbort, abortOutcome, if_neg h6, if_neg h8]

/-- With no request outstanding there is nothing to abort (R185). -/
theorem reqAbort_of_idle (hreason : abortOutcome reason = some o) (h : b.reqState = .idle) :
    reqAbort reason b = .answer b .noRequest := by
  simp [reqAbort, hreason, h]

/-- An outstanding request is ended with its reason (R185). -/
theorem reqAbort_of_pending (hreason : abortOutcome reason = some o) (h : b.reqState ≠ .idle) :
    reqAbort reason b = raiseAnswering o .none b .done := by
  rw [reqAbort, hreason]
  cases hr : b.reqState with
  | idle => exact absurd hr h
  | armed | sent => rfl

end ReqAbort

/-- Settles O36: the reason is tested first, then the request register. -/
theorem reqAbortEndsTheRequestOnly : Obligations.ReqAbortEndsTheRequestOnly := by
  unfold Obligations.ReqAbortEndsTheRequestOnly
  intro s reason
  rw [exec_eq, effectOf]
  have houtcome (h : reason = 6 ∨ reason = 8) :
      abortOutcome reason = some (if reason = 6 then .writeTimeout else .aborted) := by
    rcases h with rfl | rfl <;> rfl
  refine ⟨fun h6 h8 => ?unknown, fun hreason hidle => ?idle, fun hreason hpending => ?pending⟩
  case unknown => rw [reqAbort_of_unknown h6 h8, State.commit_answer]
  case idle => rw [reqAbort_of_idle (houtcome hreason) hidle, State.commit_answer]
  case pending =>
    rw [reqAbort_of_pending (houtcome hreason) hpending, raiseAnswering_of_pending _ _ _ hpending,
      State.commit_one_event]
    rcases hreason with rfl | rfl <;> rfl

/-! ### The request register, row by row -/

/-- Why an operation resolves the outstanding request: its row of R186, with the row's condition, outcome and info. -/
def ResolveRow (i : Instr) (b : Block) (o : ReqOutcome) (info : Info) : Prop :=
  (firesIdle i b ∧ ∃ r, tryParse b.rxBuf = .complete r true ∧ r.statusByte &&& 0x60 = 0x00 ∧
    o = (if r.returnCode = some 0x00 then .response else .deviceReturnCodeError) ∧ info = .response r) ∨
  (firesIdle i b ∧ o = .checksumMismatch ∧
    ∃ r, tryParse b.rxBuf = .complete r false ∧ r.statusByte &&& 0x60 = 0x00) ∨
  (∃ (buf : List Byte) (st : Byte),
    ((firesIdle i b ∧ buf = b.rxBuf) ∨ ∃ bs, i = .rxData bs ∧ bs ≠ [] ∧ buf = b.rxBuf ++ bs) ∧
    6 ≤ buf.length ∧ buf[4]? = some st ∧ st &&& 0x60 ≠ 0x00 ∧
    o = (if st.getLsbD 5 then .deviceOverflow else .deviceInvalidCommand) ∧ info = .status st) ∨
  (i = .linkClose ∧ o = .linkError ∧ info = .cause .closed) ∨
  (i = .linkError ∧ o = .linkError ∧ info = .cause .error) ∨
  (i = .reqTimeout ∧ o = .requestTimeout ∧ info = .none) ∨
  (i = .reqAbort 6 ∧ o = .writeTimeout ∧ info = .none) ∨
  (i = .reqAbort 8 ∧ o = .aborted ∧ info = .none)

/-- `RequestMove i b c ev`: how the operation `i`, leaving block `c` and emitting `ev`, moves the request register of
`b`. One constructor for no move and one for each kind of row of R186; `effectOf_requestMove` ties it to the model. -/
inductive RequestMove (i : Instr) (b c : Block) (ev : List Event) : Prop where
  /-- No row: no `TX`, no `RESOLVE`. -/
  | stay (hsame : c.reqState = b.reqState) (hquiet : ∀ e ∈ ev, ∃ r, e = .unsolicited r)
  /-- IDLE to ARMED, by an accepted request (R113, log 8). -/
  | arm {node port : Byte} {payload : List Byte} (hidle : b.reqState = .idle) (harmed : c.reqState = .armed)
      (hsilent : ev = []) (hreq : requestOf i = some (node, port, payload)) (hlen : payload.length ≤ 255)
  /-- ARMED to SENT, by a started write (R114). -/
  | send (harmed : b.reqState = .armed) (hsent : c.reqState = .sent) (hi : i = .writeStart) (hopen : b.isOpen = true)
      (hwrite : b.canWrite = true) (htx : ev = [.tx b.txFrame])
  /-- To IDLE without an event, by `RESET` (R230). -/
  | drop (hpending : b.reqState ≠ .idle) (hidle : c.reqState = .idle) (hi : i = .reset) (hsilent : ev = [])
  /-- To IDLE with exactly one `RESOLVE` (R210). -/
  | resolve {o : ReqOutcome} {info : Info} (hpending : b.reqState ≠ .idle) (hidle : c.reqState = .idle)
      (hev : ev = [.resolve o (decide (o = .response)) info]) (hrow : ResolveRow i b o info)

section RequestMove

variable {i : Instr} {b c : Block} {ev : List Event} {o : ReqOutcome} {info : Info}

/-- A silent operation that leaves the register. -/
theorem RequestMove.silent (hsame : c.reqState = b.reqState) : RequestMove i b c [] := .stay hsame nofun

/-- `raise` moves the register along the row it is raised for, whatever else was written before (R210). -/
theorem RequestMove.of_raise (hsame : c.reqState = b.reqState) (hrow : ResolveRow i b o info) :
    RequestMove i b (raise o info c).1 (raise o info c).2 := by
  rcases raise_cases o info c with ⟨-, e⟩ | ⟨hpending, e⟩ <;> rw [e]
  · exact .silent hsame
  · exact .resolve (hsame ▸ hpending) rfl (by rw [outcomeSuccess_eq]) hrow

/-- A device failure moves the register along its row (R137, R164). -/
theorem RequestMove.of_deviceFail {buf : List Byte} (hfail : shortCircuits buf = true)
    (hbuf : (firesIdle i b ∧ buf = b.rxBuf) ∨ ∃ bs, i = .rxData bs ∧ bs ≠ [] ∧ buf = b.rxBuf ++ bs) :
    RequestMove i b (deviceFail buf b).1 (deviceFail buf b).2 := by
  obtain ⟨h6, hstatus⟩ := (shortCircuits_iff _).mp hfail
  exact .of_raise rfl (.inr (.inr (.inl ⟨buf, byteAt buf 4, hbuf, h6, getElem?_eq_byteAt (by omega),
    (statusFails_iff _).mp hstatus, rfl, rfl⟩)))

/-- With a request outstanding a delivery raises its outcome by the return code (R163). -/
theorem deliver_eq_raise (r : Response) (h : b.reqState ≠ .idle) :
    deliver r b = raise (if r.returnCode = some 0x00 then .response else .deviceReturnCodeError) (.response r)
      { rxClear b with canWrite := true } := by
  unfold deliver
  cases hr : b.reqState with
  | idle => exact absurd hr h
  | armed | sent => rfl

/-- The delivery of a good frame resolves the outstanding request, or reports the Response with none (R163). -/
theorem RequestMove.of_deliver {r : Response} (hfires : firesIdle i b) (hp : tryParse b.rxBuf = .complete r true)
    (hs : r.statusByte &&& 0x60 = 0x00) : RequestMove i b (deliver r b).1 (deliver r b).2 := by
  by_cases h : b.reqState = .idle
  · rw [deliver_of_idle h]
    exact .stay rfl (by simp)
  · rw [deliver_eq_raise r h]
    exact .of_raise rfl (.inl ⟨hfires, r, hp, hs, rfl, rfl⟩)

/-- An idle fire moves the register as the disposition of the buffer says (R162). -/
theorem RequestMove.of_idleFire (hfires : firesIdle i b) : RequestMove i b (idleFire b).1 (idleFire b).2 := by
  rcases idleFire_cases b with e | ⟨hfail, e⟩ | ⟨r, hp, hs, e⟩ | ⟨r, hp, hs, e⟩ <;> rw [e]
  · exact .silent rfl
  · exact .of_deviceFail hfail (.inl ⟨hfires, rfl⟩)
  · exact .of_raise rfl (.inr (.inl ⟨hfires, rfl, r, hp, (statusFails_false_iff _).mp hs⟩))
  · exact .of_deliver hfires hp ((statusFails_false_iff _).mp hs)

/-- A link-down event moves the register along the row of its cause (R181, R182). -/
theorem RequestMove.of_linkDown {cause : LinkCause}
    (hi : (i = .linkClose ∧ cause = .closed) ∨ (i = .linkError ∧ cause = .error)) :
    RequestMove i b (linkDown cause b).block (linkDown cause b).events :=
  .of_raise rfl (by rcases hi with ⟨rfl, rfl⟩ | ⟨rfl, rfl⟩ <;> simp [ResolveRow])

/-- Every way an operation writes the block, but a link-down event, whose cause `Moves` leaves open, moves the register
along a row or not at all. -/
theorem Moves.requestMove (h : Moves b i c ev) (hclose : i ≠ .linkClose) (herror : i ≠ .linkError) :
    RequestMove i b c ev := by
  cases h with
  | issue hreq hidle hlen => exact .arm hidle rfl rfl hreq hlen
  | writeStart harmed hopen hwrite => exact .send harmed rfl rfl hopen hwrite rfl
  | reset =>
    by_cases hidle : b.reqState = .idle
    · exact .silent hidle.symm
    · exact .drop hidle rfl rfl rfl
  | rxFail hne hfail => exact .of_deviceFail hfail (.inr ⟨_, rfl, hne, rfl⟩)
  | fire hfires => exact .of_idleFire hfires
  | linkDown _ hi => exact absurd hi (by simp [hclose, herror])
  | timeout => exact .of_raise rfl (by simp [ResolveRow])
  | abort hreason =>
    refine .of_raise rfl ?_
    rcases abortOutcome_eq_some_iff.mp hreason with ⟨rfl, rfl⟩ | ⟨rfl, rfl⟩ <;> simp [ResolveRow]
  | stay | crcLoad | crcBit | crcByte | rxAppend | rxFlush | count | linkOpen | linkDrain => exact .silent rfl

/-- Every operation, on every block, moves the request register along a row of R186 or leaves it. -/
theorem effectOf_requestMove (i : Instr) (b : Block) :
    RequestMove i b (effectOf i b).block (effectOf i b).events := by
  by_cases hclose : i = .linkClose
  · exact effectOf_linkDown (.inl ⟨hclose, rfl⟩) b ▸ .of_linkDown (.inl ⟨hclose, rfl⟩)
  · by_cases herror : i = .linkError
    · exact effectOf_linkDown (.inr ⟨herror, rfl⟩) b ▸ .of_linkDown (.inr ⟨herror, rfl⟩)
    · exact (effectOf_moves i b).requestMove hclose herror

end RequestMove

/-- Settles O38: each kind of move is its row of the table. -/
theorem requestStateMachine : Obligations.RequestStateMachine := by
  unfold Obligations.RequestStateMachine
  intro i s t ht
  obtain rfl := exec_next ht
  simp only [State.commit_toBlock, State.commit_events, List.drop_left, List.append_cancel_left_eq,
    List.append_right_eq_self]
  cases effectOf_requestMove i s.toBlock with
  | stay hsame hquiet => exact .inl ⟨hsame, hquiet⟩
  | arm hidle harmed hsilent hreq hlen =>
    exact .inr ⟨by simp [hidle, harmed], .inl ⟨hidle, harmed, hsilent, _, _, _, hreq, hlen⟩⟩
  | send harmed hsent hi hopen hwrite htx =>
    exact .inr ⟨by simp [harmed, hsent], .inr (.inl ⟨harmed, hsent, hi, hopen, hwrite, htx⟩)⟩
  | drop hpending hidle hi hsilent =>
    exact .inr ⟨hidle ▸ hpending.symm, .inr (.inr (.inl ⟨hidle, hi, hsilent⟩))⟩
  | resolve hpending hidle hev hrow =>
    exact .inr ⟨hidle ▸ hpending.symm, .inr (.inr (.inr ⟨hidle, _, _, hev, hrow⟩))⟩

/-! ### Requests counted over a run -/

section Counting

variable {b : Block}

theorem pendingCount_of_idle (h : b.reqState = .idle) : b.pendingCount = 0 := by simp [Block.pendingCount, h]

theorem pendingCount_of_pending (h : b.reqState ≠ .idle) : b.pendingCount = 1 := by
  unfold Block.pendingCount
  cases hr : b.reqState with
  | idle => exact absurd hr h
  | armed | sent => rfl

/-- The count of outstanding requests depends on the request register alone. -/
theorem pendingCount_congr {c : Block} (h : c.reqState = b.reqState) : c.pendingCount = b.pendingCount := by
  rw [Block.pendingCount, Block.pendingCount, h]

/-- Reported Responses resolve nothing. -/
theorem countP_resolves_of_unsolicited {ev : List Event} (h : ∀ e ∈ ev, ∃ r, e = .unsolicited r) :
    ev.countP Event.resolves = 0 := by
  rw [List.countP_eq_zero]
  intro e he
  obtain ⟨r, rfl⟩ := h e he
  nofun

/-- An operation other than `RESET` that carries no request keeps the outstanding request or resolves it. -/
theorem RequestMove.conserves {i : Instr} {c : Block} {ev : List Event} (h : RequestMove i b c ev)
    (hreq : requestOf i = none) (hreset : i ≠ .reset) :
    b.pendingCount = ev.countP Event.resolves + c.pendingCount := by
  cases h with
  | stay hsame hquiet => rw [countP_resolves_of_unsolicited hquiet, pendingCount_congr hsame, Nat.zero_add]
  | arm _ _ _ hreq' => cases hreq.symm.trans hreq'
  | send harmed hsent _ _ _ htx =>
    rw [htx, pendingCount_of_pending (by simp [harmed]), pendingCount_of_pending (by simp [hsent])]
    rfl
  | drop _ _ hi => exact absurd hi hreset
  | resolve hpending hidle hev =>
    rw [hev, pendingCount_of_pending hpending, pendingCount_of_idle hidle]
    rfl

/-- The balance of every operation but `RESET`: a request accepted by it or outstanding before it is resolved by it or
outstanding after it (R186, R216). -/
theorem effectOf_conserves {i : Instr} (hreset : i ≠ .reset) (b : Block) :
    [(effectOf i b).result].count .accepted + b.pendingCount =
      (effectOf i b).events.countP Event.resolves + (effectOf i b).block.pendingCount := by
  cases hreq : requestOf i with
  | none =>
    rw [(effectOf_requestMove i b).conserves hreq hreset,
      List.count_eq_zero.mpr (by simpa using (effectOf_result_ne_accepted hreq b).symm), Nat.zero_add]
  | some q =>
    rw [effectOf_request hreq]
    rcases issue_cases q.1 q.2.1 q.2.2 b with ⟨-, e⟩ | ⟨-, -, e⟩ | ⟨hidle, -, e⟩ <;> rw [e]
    · rfl
    · rfl
    · rw [pendingCount_of_idle hidle]
      rfl

end Counting

/-- Settles O39: by induction on the run, each operation keeping the balance. -/
theorem everyAcceptedRequestResolvesOnce : Obligations.EveryAcceptedRequestResolvesOnce := by
  unfold Obligations.EveryAcceptedRequestResolvesOnce
  intro is
  induction is with
  | nil =>
    rintro s t - ⟨⟩
    rfl
  | cons i is ih =>
    intro s t hreset hrun
    obtain ⟨hi, his⟩ := List.ne_and_not_mem_of_not_mem_cons hreset
    rw [execAll_cons] at hrun
    have hrest := ih _ _ his hrun
    have hstep := effectOf_conserves hi.symm s.toBlock
    simp only [State.commit_results, State.commit_events, State.commit_toBlock, List.count_append,
      List.countP_append] at hrest
    omega

/-! ### One request in flight -/

/-- A run only adds events. -/
theorem execAll_events_append {is : List Instr} {s t : State} (h : execAll is s = some t) :
    ∃ es, s.events ++ es = t.events := by
  induction is generalizing s with
  | nil =>
    obtain rfl := Option.some.inj h
    exact ⟨[], List.append_nil _⟩
  | cons i is ih =>
    rw [execAll_cons] at h
    obtain ⟨later, hlater⟩ := ih h
    exact ⟨(effectOf i s.toBlock).events ++ later, by rw [← hlater, State.commit_events, List.append_assoc]⟩

/-- From a sent request an operation other than `RESET` emits a `RESOLVE`, or leaves it sent and reports Responses only
(R186, R188). -/
theorem RequestMove.of_sent {i : Instr} {b c : Block} {ev : List Event} (h : RequestMove i b c ev)
    (hsent : b.reqState = .sent) (hreset : i ≠ .reset) :
    0 < ev.countP Event.resolves ∨ (c.reqState = .sent ∧ ∀ e ∈ ev, ∃ r, e = .unsolicited r) := by
  cases h with
  | stay hsame hquiet => exact .inr ⟨hsame.trans hsent, hquiet⟩
  | arm hidle => cases hsent.symm.trans hidle
  | send harmed => cases hsent.symm.trans harmed
  | drop _ _ hi => exact absurd hi hreset
  | resolve _ _ hev => exact .inl (by rw [hev]; exact Nat.one_pos)

/-- From a sent request, a run without `RESET` that adds events without a `RESOLVE` leaves the request sent and adds
reported Responses only. -/
theorem execAll_of_sent {is : List Instr} {s t : State} {es : List Event} (hreset : .reset ∉ is)
    (hsent : s.reqState = .sent) (hrun : execAll is s = some t) (hes : s.events ++ es = t.events)
    (hnone : es.countP Event.resolves = 0) : t.reqState = .sent ∧ ∀ e ∈ es, ∃ r, e = .unsolicited r := by
  induction is generalizing s es with
  | nil =>
    obtain rfl := Option.some.inj hrun
    obtain rfl : es = [] := List.append_right_eq_self.mp hes
    exact ⟨hsent, nofun⟩
  | cons i is ih =>
    obtain ⟨hi, his⟩ := List.ne_and_not_mem_of_not_mem_cons hreset
    rw [execAll_cons] at hrun
    obtain ⟨later, hlater⟩ := execAll_events_append hrun
    obtain rfl : es = (effectOf i s.toBlock).events ++ later := by
      rw [State.commit_events, List.append_assoc, ← hes] at hlater
      exact (List.append_cancel_left hlater).symm
    rw [List.countP_append, Nat.add_eq_zero_iff] at hnone
    obtain ⟨hfirst, hrest⟩ := hnone
    rcases (effectOf_requestMove i s.toBlock).of_sent hsent hi.symm with hres | ⟨hstill, hquiet⟩
    · exact absurd hfirst hres.ne'
    · obtain ⟨ht, hquiet'⟩ := ih his hstill hrun hlater hrest
      exact ⟨ht, List.forall_mem_append.mpr ⟨hquiet, hquiet'⟩⟩

/-- Settles O40: what the run adds resolves nothing, so no operation of it ended or sent the request. -/
theorem oneRequestInFlight : Obligations.OneRequestInFlight := by
  unfold Obligations.OneRequestInFlight
  intro is s t hreset hsent hrun hnone
  obtain ⟨es, hes⟩ := execAll_events_append hrun
  rw [← hes, List.drop_left]
  rw [← hes, List.countP_append, Nat.add_eq_left] at hnone
  exact execAll_of_sent hreset hsent hrun hes hnone

end Sys2Proof.Machine

namespace Sys2Proof.Machine

/-! ### Refusing results -/

/-- An effect on `b` that answers a refusing result is that answer alone: it writes nothing and emits nothing (R82). -/
def Effect.RefusalIsInert (b : Block) (e : Effect) : Prop :=
  e.result.refuses = true → e = .answer b e.result

theorem Effect.RefusalIsInert.answer (b : Block) (r : Result) : RefusalIsInert b (.answer b r) := fun _ => rfl

theorem Effect.RefusalIsInert.of_performs {b : Block} {e : Effect} (h : e.result.refuses = false) :
    RefusalIsInert b e := fun hrefuses => nomatch hrefuses.symm.trans h

/-- A request refused, as busy or as too long, does nothing (R113). -/
theorem issue_refusalIsInert (node port : Byte) (payload : List Byte) (b : Block) :
    (issue node port payload b).RefusalIsInert b := by
  rcases issue_cases node port payload b with ⟨-, e⟩ | ⟨-, -, e⟩ | ⟨-, -, e⟩ <;> rw [e]
  · exact .answer b _
  · exact .answer b _
  · exact .of_performs rfl

/-- Every operation that answers a refusing result does nothing else (R217). -/
theorem effectOf_refusalIsInert (i : Instr) (b : Block) : (effectOf i b).RefusalIsInert b := by
  cases hreq : requestOf i with
  | some q =>
    rw [effectOf_request hreq]
    exact issue_refusalIsInert _ _ _ b
  | none =>
    cases i with
    | crcRead | checksum _ _ | build _ _ _ _ | tryParse _ | statusDecode _ => exact .answer b _
    | reset | crcLoad _ | crcBit _ | crcByte _ | rxFlush | idleFire | linkOpen | linkClose | linkError | linkDrain =>
      exact .of_performs rfl
    | writeStart =>
      rcases writeStart_cases b with ⟨r, -, e⟩ | ⟨-, -, -, e⟩ <;> rw [effectOf, e]
      · exact .answer b r
      · exact .of_performs rfl
    | rxData bs =>
      rcases rxData_cases bs b with ⟨-, e⟩ | ⟨-, -, e⟩ | ⟨-, -, e⟩ <;> rw [effectOf, e]
      · exact .answer b _
      · exact .of_performs rfl
      · exact .of_performs rfl
    | tick =>
      rcases tick_cases Config.hw.tIdle b with ⟨-, e⟩ | ⟨-, -, e⟩ | ⟨-, -, e⟩ <;> rw [effectOf, e]
      · exact .answer b _
      · exact .of_performs rfl
      · exact .of_performs rfl
    | reqTimeout =>
      rcases reqTimeout_cases b with ⟨-, e⟩ | ⟨-, e⟩ <;> rw [effectOf, e]
      · exact .answer b _
      · exact .of_performs rfl
    | reqAbort reason =>
      rcases reqAbort_cases reason b with ⟨r, e⟩ | ⟨o, -, -, e⟩ <;> rw [effectOf, e]
      · exact .answer b r
      · exact .of_performs rfl
    | _ => cases hreq

/-- Settles O6: `exec` commits the effect of its instruction, and the effect of a refusal is its answer alone. -/
theorem everyOperationIsTotal : Obligations.EveryOperationIsTotal := by
  unfold Obligations.EveryOperationIsTotal
  intro i s
  refine ⟨_, _, _, exec_eq i s, s.commit_results _, s.commit_events _, s.commit_inputs _, fun hrefuses => ?_⟩
  have hanswer := effectOf_refusalIsInert i s.toBlock hrefuses
  exact ⟨congrArg Effect.block hanswer, congrArg Effect.events hanswer⟩

/-! ### The outcomes -/

/-- Settles O46: the two columns of R200, row by row. -/
theorem outcomeTable : Obligations.OutcomeTable := rfl

end Sys2Proof.Machine

namespace Sys2Proof.Machine

/-! ### Reset, and a step uninvoked -/

/-- Settles O2: `RESET` commits the listed block and answers `OK`. -/
theorem resetRestoresEveryItem : Obligations.ResetRestoresEveryItem := by
  unfold Obligations.ResetRestoresEveryItem
  intro s
  rw [exec_eq, effectOf, State.commit_answer_block]
  rfl

/-- A step with nothing to fetch keeps the state (R231, log 18). -/
theorem step_of_fetch_nothing {s : State} (h : fetch s.inputs = .nothing) : step s = .next s := by rw [step, h]

/-- Settles O5: an empty queue holds nothing to fetch, and the queue after reset is empty. -/
theorem nothingHappensUninvoked : Obligations.NothingHappensUninvoked := by
  unfold Obligations.NothingHappensUninvoked
  have uninvoked (s : State) (hq : s.inputs = []) : step s = .next s := step_of_fetch_nothing (by rw [hq, fetch])
  exact ⟨uninvoked State.reset rfl, uninvoked⟩

/-! ### Hazards of the idle timer -/

/-- Settles O47: ticks leave the block as it stands, so the request that makes `ISSUE` busy is still outstanding. -/
theorem lostFrameStallsTheRequest : Obligations.LostFrameStallsTheRequest := by
  unfold Obligations.LostFrameStallsTheRequest
  intro s n node port payload hdisarmed hpending
  obtain ⟨t, hrun, hblock, hevents⟩ := execAll_ticks_disarmed n hdisarmed
  refine ⟨t, hrun, hblock, hevents, ?_⟩
  have hstill : t.reqState ≠ .idle := hblock ▸ hpending
  rw [exec_eq, effectOf, issue_of_pending hstill, State.commit_answer]

/-- A receive event that completes no frame and fails no status test is retained past the fire, with the timer disarmed
(R162, R165). -/
theorem execAll_rxData_ticks_retain {s : State} {bs : List Byte} (hne : bs ≠ [])
    (hclear : shortCircuits (s.rxBuf ++ bs) = false) (hmissing : ∀ r k, tryParse (s.rxBuf ++ bs) ≠ .complete r k) :
    ∃ t : State, execAll (.rxData bs :: ticks Config.hw.tIdle) s = some t ∧ t.events = s.events ∧
      t.toBlock = { s.toBlock with rxBuf := s.rxBuf ++ bs, idleArmed := false, idleCnt := 0 } := by
  have hfire := idleFire_of_incomplete (b := rxAppend s.toBlock bs) hclear hmissing
  rw [execAll_cons, effectOf_rxData_of_clear hne hclear]
  obtain ⟨t, hrun, hblock, hevents⟩ := execAll_ticks_fire
    (s := s.commit (.answer (rxAppend s.toBlock bs) .ok)) rfl rfl
  rw [State.commit_toBlock, Effect.answer_block, hfire] at hblock hevents
  exact ⟨t, hrun, by simpa using hevents, hblock⟩

/-- With a request outstanding and the buffer empty, a header with a failing status byte resolves the request at once
and leaves the buffer empty (R136, R137). -/
theorem execAll_rxData_failing_header {s : State} {st : Byte} (h0 h1 dst src dl : Byte) (hempty : s.rxBuf = [])
    (hpending : s.reqState ≠ .idle) (hset : st &&& 0x60 ≠ 0x00) :
    ∃ t : State, execAll [.rxData [h0, h1, dst, src, st, dl]] s = some t ∧
      t.events = s.events ++
        [.resolve (if st.getLsbD 5 then .deviceOverflow else .deviceInvalidCommand) false (.status st)] ∧
      t.toBlock = { rxClear s.toBlock with reqState := .idle } := by
  have hfail : shortCircuits [h0, h1, dst, src, st, dl] = true :=
    (shortCircuits_iff _).mpr ⟨Nat.le_refl 6, (statusFails_iff st).mpr hset⟩
  have heffect : effectOf (.rxData [h0, h1, dst, src, st, dl]) s.toBlock = _ :=
    rxData_of_fails (List.cons_ne_nil _ _) (by rwa [hempty])
  rw [deviceFail_pending _ hpending, hempty] at heffect
  exact ⟨_, execAll_cons _ [] s, by rw [heffect]; rfl, by rw [heffect]; rfl⟩

/-- Settles O48: the header fails the device and leaves the buffer empty, where the two bytes of the tail are too short
for a header and so are retained. -/
theorem shortCircuitLeavesTheTail : Obligations.ShortCircuitLeavesTheTail := by
  unfold Obligations.ShortCircuitLeavesTheTail
  intro s h0 h1 dst src st c0 c1 hempty hpending hset
  obtain ⟨m, hheader, hresolved, hm⟩ := execAll_rxData_failing_header h0 h1 dst src 0x00 hempty hpending hset
  have hbuf : m.rxBuf = [] := by rw [hm]; rfl
  obtain ⟨t, htail, hquiet, ht⟩ := execAll_rxData_ticks_retain (s := m) (bs := [c0, c1]) (List.cons_ne_nil _ _)
    (by rw [hbuf]; rfl) (by rw [hbuf]; nofun)
  rw [hm] at ht
  refine ⟨t, _, ?run, congrArg Block.reqState ht, congrArg Block.rxBuf ht, congrArg Block.idleArmed ht,
    (congrArg Block.canWrite ht).trans rfl, hquiet.trans hresolved, exec_eq .rxFlush t, rfl⟩
  case run => exact (execAll_append [_] _ s).trans (by rw [hheader, Option.bind_some, htail])

end Sys2Proof.Machine

namespace Sys2Proof.Machine

/-! ### What a changed byte does to a checksum -/

/-- The sequence with the bits of `e` flipped in its byte `i`. -/
def flipByte (m : List Byte) (i : Nat) (e : Byte) : List Byte := m.set i (byteAt m i ^^^ e)

/-- What the bits of `e`, flipped in a byte that `n` bytes follow, change in a checksum (R98). -/
def syndrome (n : Nat) (e : Byte) : Word16 := checksum (List.replicate n 0x00) (e.setWidth 16)

/-- A change of the register is carried through the bytes that follow as through zero bytes (R98). -/
theorem checksum_xor_seed (m : List Byte) (x y : Word16) :
    checksum m (x ^^^ y) = checksum m x ^^^ checksum (List.replicate m.length 0x00) y := by
  induction m generalizing x y with
  | nil => rfl
  | cons b m ih =>
    have hstep : byteStep (x ^^^ y) b = byteStep x b ^^^ byteStep y 0x00 := by
      rw [← byteStep_xor, BitVec.ofNat_eq_ofNat, BitVec.xor_zero]
    rw [checksum_cons, hstep, ih]
    rfl

/-- Flipping bits of one byte changes the checksum by their syndrome, whatever the bytes and the seed are (R98). -/
theorem checksum_flipByte {m : List Byte} {i : Nat} (hi : i < m.length) (e : Byte) (seed : Word16) :
    checksum (flipByte m i e) seed = checksum m seed ^^^ syndrome (m.length - (i + 1)) e := by
  have hbyte : byteAt m i = m[i] := by simp [byteAt, hi]
  have hsplit : m = m.take i ++ m[i] :: m.drop (i + 1) := by
    rw [List.getElem_cons_drop, List.take_append_drop]
  have hflip : flipByte m i e = m.take i ++ (m[i] ^^^ e) :: m.drop (i + 1) := by
    rw [flipByte, hbyte, List.set_eq_take_append_cons_drop, if_pos hi]
  have hsum : checksum m seed = checksum (m.take i ++ m[i] :: m.drop (i + 1)) seed := congrArg (checksum · seed) hsplit
  rw [hsum, hflip, checksum_append, checksum_append, checksum_cons, checksum_cons, byteStep_xor_byte,
    checksum_xor_seed, List.length_drop]
  rfl

/-- In the last byte of a sequence the flipped bits stand in the low half of the checksum (R98). -/
theorem syndrome_zero (e : Byte) : syndrome 0 e = e.setWidth 16 := rfl

/-- In the last but one byte they stand in the high half (R98). -/
theorem syndrome_one (e : Byte) : syndrome 1 e = e.setWidth 16 <<< 8 := by
  have hzero : byteStep 0x0000 0x00 = 0x0000 := rfl
  have hstep := byteStep_xor_low 0x0000 e 0x00
  rw [hzero, BitVec.ofNat_eq_ofNat, BitVec.zero_xor, BitVec.zero_xor] at hstep
  exact hstep

/-- Zero bytes bring no nonzero register to zero (R255). -/
theorem eq_zero_of_checksum_replicate_zero {n : Nat} {x : Word16}
    (h : checksum (List.replicate n 0x00) x = 0x0000) : x = 0x0000 := by
  induction n generalizing x with
  | zero => exact h
  | succ n ih => exact byteStep_zero_eq_zero (ih h)

/-- No flipped bits have the syndrome zero, wherever they stand (R255). -/
theorem syndrome_ne_zero (n : Nat) {e : Byte} (he : e ≠ 0x00) : syndrome n e ≠ 0x0000 := by
  intro h
  have hwide : e.setWidth 16 = 0x0000 := eq_zero_of_checksum_replicate_zero h
  exact he (by bv_omega)

/-! ### What a changed byte does to a whole frame -/

/-- The two bytes of a checksum do not overlap in it (R45). -/
theorem joinLoHi_eq_xor (lo hi : Byte) : joinLoHi lo hi = lo.setWidth 16 ^^^ (hi.setWidth 16 <<< 8) := by
  have hback : (hi.setWidth 16).setWidth 8 = hi := by simp
  rw [joinLoHi, BitVec.or_comm, shiftLeft_or_byte, hback, BitVec.xor_comm]

section FlipByte

variable {buf : List Byte} {i j : Nat} (e : Byte)

@[simp] theorem flipByte_length : (flipByte buf i e).length = buf.length := List.length_set ..

theorem byteAt_flipByte_same (h : i < buf.length) : byteAt (flipByte buf i e) i = byteAt buf i ^^^ e := by
  simp [flipByte, byteAt, h]

theorem byteAt_flipByte_ne (h : i ≠ j) : byteAt (flipByte buf i e) j = byteAt buf j := by
  simp [flipByte, byteAt, h]

/-- Where the checksum stands depends on the length byte alone (R61). -/
theorem crcOffset_flipByte (h : i ≠ 5) : crcOffset (flipByte buf i e) = crcOffset buf := by
  rw [crcOffset, byteAt_flipByte_ne e h, crcOffset]

/-- Bytes beyond a slice are not in it. -/
theorem slice_flipByte_beyond {k : Nat} (hjk : j ≤ k) (h : k ≤ i) :
    slice (flipByte buf i e) j k = slice buf j k := by
  have hbeyond : ((buf.drop j).take (k - j)).length ≤ i - j := by
    rw [List.length_take]
    omega
  rw [slice, flipByte, List.drop_set, if_neg (by omega), List.take_set, List.set_eq_of_length_le hbeyond, slice]

/-- Inside a slice the flipped byte stands by its distance from the slice's start. -/
theorem slice_flipByte_inside {k : Nat} (hji : j ≤ i) (hik : i < k) :
    slice (flipByte buf i e) j k = flipByte (slice buf j k) (i - j) e := by
  have hread : byteAt (slice buf j k) (i - j) = byteAt buf i := by
    simp [slice, byteAt, List.getElem?_drop, show i - j < k - j by omega, Nat.add_sub_cancel' hji]
  rw [flipByte, flipByte, hread, slice, List.drop_set, if_neg (by omega), List.take_set, slice]

/-- Flipped checksum bytes do not change the checksum computed (R63). -/
theorem computedChecksum_flipByte_checksum (h : crcOffset buf ≤ i) :
    computedChecksum (flipByte buf i e) = computedChecksum buf := by
  have h6 : 6 ≤ crcOffset buf := Nat.le_add_right _ _
  rw [computedChecksum, crcOffset_flipByte e (by omega), slice_flipByte_beyond e (by omega) h, computedChecksum]

/-- A covered byte's flipped bits change the checksum computed by their syndrome (R63, R98). -/
theorem computedChecksum_flipByte_covered (h2 : 2 ≤ i) (h5 : i ≠ 5) (h : i < crcOffset buf)
    (hlen : crcOffset buf ≤ buf.length) :
    computedChecksum (flipByte buf i e) = computedChecksum buf ^^^ syndrome (crcOffset buf - (i + 1)) e := by
  have hcovered : (slice buf 2 (crcOffset buf)).length = crcOffset buf - 2 := by
    rw [slice, List.length_take, List.length_drop]
    omega
  have hafter : crcOffset buf - 2 - (i - 2 + 1) = crcOffset buf - (i + 1) := by omega
  rw [computedChecksum, crcOffset_flipByte e h5, slice_flipByte_inside e h2 h, checksum_flipByte (by omega), hcovered,
    hafter, computedChecksum]

/-- Flipped bytes before the checksum do not change the checksum carried (R45). -/
theorem receivedChecksum_flipByte_before (h5 : i ≠ 5) (h : i < crcOffset buf) :
    receivedChecksum (flipByte buf i e) = receivedChecksum buf := by
  rw [receivedChecksum, crcOffset_flipByte e h5, byteAt_flipByte_ne e (by omega), byteAt_flipByte_ne e (by omega),
    receivedChecksum]

/-- Flipped bits of a checksum byte change the checksum carried by their syndrome in the last covered byte,
for the low byte, or in the last but one, for the high byte (R45, R255). -/
theorem receivedChecksum_flipByte_checksum {n : Nat} (hn : n < 2) (hi : i = crcOffset buf + n)
    (hlen : crcOffset buf + 2 ≤ buf.length) :
    receivedChecksum (flipByte buf i e) = receivedChecksum buf ^^^ syndrome n e := by
  have h6 : 6 ≤ crcOffset buf := Nat.le_add_right _ _
  subst hi
  rw [receivedChecksum, crcOffset_flipByte e (by omega), receivedChecksum, joinLoHi_eq_xor, joinLoHi_eq_xor]
  obtain rfl | rfl : n = 0 ∨ n = 1 := by omega
  · rw [Nat.add_zero, byteAt_flipByte_same e (by omega), byteAt_flipByte_ne e (by omega), syndrome_zero,
      BitVec.setWidth_xor]
    ac_rfl
  · rw [byteAt_flipByte_same e (by omega), byteAt_flipByte_ne e (by omega), syndrome_one, BitVec.setWidth_xor,
      BitVec.shiftLeft_xor_distrib, BitVec.xor_assoc]

/-- With any byte but the length byte changed, a buffer holds a whole frame as before (R130). -/
theorem tryParse_flipByte (h5 : i ≠ 5) (hlen : crcOffset buf + 2 ≤ buf.length) :
    tryParse (flipByte buf i e) = .complete (responseOf (flipByte buf i e))
      (computedChecksum (flipByte buf i e) == receivedChecksum (flipByte buf i e)) := by
  have hoff : crcOffset buf = 6 + (byteAt buf 5).toNat := rfl
  apply tryParse_of_complete
  rw [flipByte_length, byteAt_flipByte_ne e h5]
  omega

end FlipByte

/-- A single bit is not zero. -/
theorem one_shiftLeft_ne_zero {k : Nat} (hk : k < 8) : (0x01 : Byte) <<< k ≠ 0x00 := by
  interval_cases k <;> decide

/-- A buffer that parses as a good frame: where its checksum stands, and that it agrees (R130). -/
theorem good_of_tryParse {buf : List Byte} {r : Response} (hp : tryParse buf = .complete r true) :
    crcOffset buf = 6 + r.dataLength.toNat ∧ crcOffset buf + 2 ≤ buf.length ∧
      computedChecksum buf = receivedChecksum buf := by
  obtain ⟨hlen, rfl, hagree⟩ := tryParse_complete hp
  have hoff : crcOffset buf = 6 + (byteAt buf 5).toNat := rfl
  exact ⟨rfl, by omega, eq_of_beq hagree.symm⟩

section Good

variable {buf : List Byte} {e : Byte} (hlen : crcOffset buf + 2 ≤ buf.length)
  (hgood : computedChecksum buf = receivedChecksum buf)
include hlen hgood

/-- In a good frame flipped bits of one byte that is covered, but for the length byte, or of the checksum, are detected:
they change one of the two checksums and not the other (R255). -/
theorem checksums_flipByte_ne {i : Nat} (he : e ≠ 0x00) (h2 : 2 ≤ i) (h5 : i ≠ 5) (h : i < crcOffset buf + 2) :
    computedChecksum (flipByte buf i e) ≠ receivedChecksum (flipByte buf i e) := by
  rcases Nat.lt_or_ge i (crcOffset buf) with hcovered | hchecksum
  · rw [computedChecksum_flipByte_covered e h2 h5 hcovered (by omega), receivedChecksum_flipByte_before e h5 hcovered,
      hgood, Ne, xor_left_eq_self_iff]
    exact syndrome_ne_zero _ he
  · obtain ⟨n, rfl⟩ := Nat.exists_eq_add_of_le hchecksum
    rw [computedChecksum_flipByte_checksum e hchecksum, receivedChecksum_flipByte_checksum e (by omega) rfl hlen, hgood,
      ne_comm, Ne, xor_left_eq_self_iff]
    exact syndrome_ne_zero _ he

/-- In a good frame the same bits flipped in the data byte that `n` data bytes follow and in checksum byte `n` are not
detected: they change both checksums by one syndrome (R255). -/
theorem checksums_flipByte_pair {i j n : Nat} (hn : n < 2) (h6 : 6 ≤ i) (hi : i + (n + 1) = crcOffset buf)
    (hj : j = crcOffset buf + n) :
    computedChecksum (flipByte (flipByte buf i e) j e) = receivedChecksum (flipByte (flipByte buf i e) j e) := by
  have hoff : crcOffset (flipByte buf i e) = crcOffset buf := crcOffset_flipByte e (by omega)
  have hafter : crcOffset buf - (i + 1) = n := by omega
  calc computedChecksum (flipByte (flipByte buf i e) j e)
      = computedChecksum buf ^^^ syndrome n e := by
        rw [computedChecksum_flipByte_checksum e (by omega),
          computedChecksum_flipByte_covered e (by omega) (by omega) (by omega) (by omega), hafter]
    _ = receivedChecksum (flipByte (flipByte buf i e) j e) := by
        rw [receivedChecksum_flipByte_checksum e hn (by rw [hoff, hj]) (by rwa [hoff, flipByte_length]),
          receivedChecksum_flipByte_before e (by omega) (by omega), hgood]

/-- Such a frame still parses as a good one (R255). -/
theorem tryParse_flipByte_pair {i j n : Nat} (hn : n < 2) (h6 : 6 ≤ i) (hi : i + (n + 1) = crcOffset buf)
    (hj : j = crcOffset buf + n) : ∃ r, tryParse (flipByte (flipByte buf i e) j e) = .complete r true := by
  have hoff : crcOffset (flipByte buf i e) = crcOffset buf := crcOffset_flipByte e (by omega)
  have hparse := tryParse_flipByte (buf := flipByte buf i e) (i := j) e (by omega) (by rwa [hoff, flipByte_length])
  rw [checksums_flipByte_pair hlen hgood hn h6 hi hj, beq_self_eq_true] at hparse
  exact ⟨_, hparse⟩

end Good

/-- Settles O49: a flipped bit changes a checksum by its syndrome, which is not zero; in a good frame it reaches one of
the two checksums alone. -/
theorem flippedBitIsDetected : Obligations.FlippedBitIsDetected := by
  unfold Obligations.FlippedBitIsDetected
  refine ⟨?bytes, ?frame⟩
  case bytes =>
    intro m seed j k hj hk
    change checksum (flipByte m j (0x01 <<< k)) seed ≠ _
    rw [checksum_flipByte hj, Ne, xor_left_eq_self_iff]
    exact syndrome_ne_zero _ (one_shiftLeft_ne_zero hk)
  case frame =>
    intro buf r hp i k h2 h5 hi hk
    obtain ⟨hoff, hlen, hgood⟩ := good_of_tryParse hp
    have hdiffer := checksums_flipByte_ne hlen hgood (one_shiftLeft_ne_zero hk) h2 h5 (by omega)
    have hparse := tryParse_flipByte ((0x01 : Byte) <<< k) h5 hlen
    rw [beq_false_of_ne hdiffer] at hparse
    exact ⟨_, hparse⟩

/-- Settles O50: the flipped checksum byte changes the checksum carried by the syndrome by which the flipped data byte
changes the checksum computed. -/
theorem twoBitErrorsPassTheChecksum : Obligations.TwoBitErrorsPassTheChecksum := by
  unfold Obligations.TwoBitErrorsPassTheChecksum
  intro buf r k hp hk
  obtain ⟨hoff, hlen, hgood⟩ := good_of_tryParse hp
  intro n flip
  exact ⟨fun hdata => tryParse_flipByte_pair hlen hgood (n := 0) (by omega) (by omega) (by omega) (by omega),
    fun hdata => tryParse_flipByte_pair hlen hgood (n := 1) (by omega) (by omega) (by omega) (by omega)⟩

end Sys2Proof.Machine
